-- ==== Sys2Proof/Word.lean ====
section
/-! DEFINITION. The fixed-width words of the SCC block (00_scope.md R11: uN is an unsigned integer of N bits). -/

namespace Sys2Proof

/-- u8: the unit of bus transfer (20_memory.md R50). -/
abbrev Byte := BitVec 8

/-- u16: a coefficient slot, a mired value, SEQ_IDX (10_state.md R21, R23, R28). -/
abbrev Half := BitVec 16

/-- u24: a fraction of one waveform period (10_state.md R27). -/
abbrev Turn := BitVec 24

/-- u32: an event word (30_encoding.md R80) or a response value (R85). -/
abbrev Word := BitVec 32

/-- u7: a device address on the bus (20_memory.md R50). -/
abbrev DevAddr := BitVec 7

end Sys2Proof
end

