-- ==== Sys2Proof/Syntax.lean ====
section
/-! DEFINITION. The 25 operations of 30_encoding.md R84, one constructor per row of the opcode table. Every operand
is an unsigned field taken as it stands (R82), so its type has exactly the field's width. -/

namespace Sys2Proof

/-- One operation. The constructor's name is the mnemonic in lower camel case; the operands are those of R84. -/
inductive Instr where
  /-- 0x00, format N (41_pwm_driver.md R156). -/
  | nop
  /-- 0x01, format B: register number (41_pwm_driver.md R157). -/
  | rdreg (r : Byte)
  /-- 0x10, format N (40_calibration_conversion.md R104). -/
  | ptCalrd
  /-- 0x11, format N (R108). -/
  | ptCalvfy
  /-- 0x12, format N (R110). -/
  | ptInit
  /-- 0x13, format N (R113). -/
  | ptTemp
  /-- 0x14, format N (R120). -/
  | rhRead
  /-- 0x15, format N (R124). -/
  | slInit
  /-- 0x16, format N (R126). -/
  | slTemp
  /-- 0x20, format N (41_pwm_driver.md R142). -/
  | pwmInit
  /-- 0x21, format P: channel, duty (R145). -/
  | pwmSetch (a d : Byte)
  /-- 0x22, format P: group selector, duty (R148). -/
  | pwmSetgrp (a d : Byte)
  /-- 0x23, format B: percent (R151). -/
  | pwmPct2duty (p : Byte)
  /-- 0x30, format L: brightness, mireds (42_mixing.md R163). -/
  | lampLoad (b : Byte) (m : Half)
  /-- 0x31, format B: brightness (R164). -/
  | lampSetb (b : Byte)
  /-- 0x32, format H: mireds (R165). -/
  | lampSetct (m : Half)
  /-- 0x33, format L: brightness, mireds (R166). -/
  | mixApply (b : Byte) (m : Half)
  /-- 0x34, format N (R167). -/
  | mixRecall
  /-- 0x40, format N (43_animation.md R185). -/
  | animBoot
  /-- 0x41, format W: FREQ (R186). -/
  | animBrinit (f : Turn)
  /-- 0x42, format N (R187). -/
  | animBren
  /-- 0x43, format N (R188). -/
  | animStop
  /-- 0x44, format N (R189). -/
  | animBlink
  /-- 0x45, format N (R192). -/
  | animTick
  /-- 0x46, format N (R194). -/
  | animStep
deriving DecidableEq, Repr

/-- The three sources of event words (60_exceptions.md R226). -/
inductive Source where
  | host
  | tick
  | sequencer
deriving DecidableEq, Repr

/-- One item of the block's input: an event word with the source that sent it (60_exceptions.md R226), or the reset
input, which is separate from the event input (70_reset_and_hazards.md R250). -/
inductive Input where
  | event (src : Source) (word : Word)
  | reset
deriving DecidableEq, Repr

/-- The pseudo-operations of 30_encoding.md R88. -/
inductive Pseudo where
  | animBreath (f : Turn)
  | pwmOff
  | lampSet (b : Byte) (m : Half)
deriving DecidableEq, Repr

end Sys2Proof
end

