-- ==== Sys2Proof/Decode.lean ====
section
/-! DEFINITION. The event-word decoder and encoder of 30_encoding.md R80 to R86, the names of the operations (R84,
R87) and the pseudo-operations' expansions (R88). -/

namespace Sys2Proof

/-- The six operand formats (R81). -/
inductive Format where
  | N | B | H | P | L | W
deriving DecidableEq, Repr

/-- Why a word is illegal (R83). -/
inductive DecodeError where
  /-- The opcode is none of the 25 of R84. -/
  | reservedOpcode (op : Byte)
  /-- A must-be-zero bit of the opcode's format is 1. -/
  | mustBeZero (op : Byte)
deriving DecidableEq, Repr

/-- The fixed-bit mask of a format (R81). -/
def Format.mask : Format → Word
  | .N => 0xFFFFFFFF#32
  | .B => 0xFFFFFF00#32
  | .H => 0xFFFF0000#32
  | .P => 0xFFFF0000#32
  | .L => 0xFF000000#32
  | .W => 0xFF000000#32

/-! The operand fields of R82; `w` is the event word. -/

/-- op = w[31:24]. -/
def opField (w : Word) : Byte := w.extractLsb' 24 8
/-- imm8 = w[7:0]. -/
def imm8Field (w : Word) : Byte := w.extractLsb' 0 8
/-- imm16 = w[15:0]. -/
def imm16Field (w : Word) : Half := w.extractLsb' 0 16
/-- a = w[15:8]. -/
def aField (w : Word) : Byte := w.extractLsb' 8 8
/-- d = w[7:0]. -/
def dField (w : Word) : Byte := w.extractLsb' 0 8
/-- b = w[23:16]. -/
def bField (w : Word) : Byte := w.extractLsb' 16 8
/-- m = w[15:0]. -/
def mField (w : Word) : Half := w.extractLsb' 0 16
/-- f = w[23:0]. -/
def fField (w : Word) : Turn := w.extractLsb' 0 24

/-- The row of R84 an opcode names: its format and the operation with the operands of `w`. -/
def opcodeRow (op : Nat) (w : Word) : Option (Format × Instr) :=
  match op with
  | 0x00 => some (.N, .nop)
  | 0x01 => some (.B, .rdreg (imm8Field w))
  | 0x10 => some (.N, .ptCalrd)
  | 0x11 => some (.N, .ptCalvfy)
  | 0x12 => some (.N, .ptInit)
  | 0x13 => some (.N, .ptTemp)
  | 0x14 => some (.N, .rhRead)
  | 0x15 => some (.N, .slInit)
  | 0x16 => some (.N, .slTemp)
  | 0x20 => some (.N, .pwmInit)
  | 0x21 => some (.P, .pwmSetch (aField w) (dField w))
  | 0x22 => some (.P, .pwmSetgrp (aField w) (dField w))
  | 0x23 => some (.B, .pwmPct2duty (imm8Field w))
  | 0x30 => some (.L, .lampLoad (bField w) (mField w))
  | 0x31 => some (.B, .lampSetb (imm8Field w))
  | 0x32 => some (.H, .lampSetct (imm16Field w))
  | 0x33 => some (.L, .mixApply (bField w) (mField w))
  | 0x34 => some (.N, .mixRecall)
  | 0x40 => some (.N, .animBoot)
  | 0x41 => some (.W, .animBrinit (fField w))
  | 0x42 => some (.N, .animBren)
  | 0x43 => some (.N, .animStop)
  | 0x44 => some (.N, .animBlink)
  | 0x45 => some (.N, .animTick)
  | 0x46 => some (.N, .animStep)
  | _ => none

/-- The decoder of R86: look the opcode up, check the must-be-zero bits of its format against `match` = op << 24
(R83, R84), take the operands. -/
def decode (w : Word) : Except DecodeError Instr :=
  match opcodeRow (opField w).toNat w with
  | none => .error (.reservedOpcode (opField w))
  | some (fmt, i) =>
    if w &&& fmt.mask = opField w ++ 0#24 then .ok i else .error (.mustBeZero (opField w))

/-! The six formats of R81 as words. -/

/-- Format N: no operand. -/
def wordN (op : Byte) : Word := op ++ 0#24
/-- Format B: imm8. -/
def wordB (op imm8 : Byte) : Word := op ++ 0#16 ++ imm8
/-- Format H: imm16. -/
def wordH (op : Byte) (imm16 : Half) : Word := op ++ 0#8 ++ imm16
/-- Format P: a, d. -/
def wordP (op a d : Byte) : Word := op ++ 0#8 ++ a ++ d
/-- Format L: b, m. -/
def wordL (op b : Byte) (m : Half) : Word := op ++ b ++ m
/-- Format W: f. -/
def wordW (op : Byte) (f : Turn) : Word := op ++ f

/-- The event word of an operation (R81, R84). -/
def encode : Instr → Word
  | .nop => wordN 0x00
  | .rdreg r => wordB 0x01 r
  | .ptCalrd => wordN 0x10
  | .ptCalvfy => wordN 0x11
  | .ptInit => wordN 0x12
  | .ptTemp => wordN 0x13
  | .rhRead => wordN 0x14
  | .slInit => wordN 0x15
  | .slTemp => wordN 0x16
  | .pwmInit => wordN 0x20
  | .pwmSetch a d => wordP 0x21 a d
  | .pwmSetgrp a d => wordP 0x22 a d
  | .pwmPct2duty p => wordB 0x23 p
  | .lampLoad b m => wordL 0x30 b m
  | .lampSetb b => wordB 0x31 b
  | .lampSetct m => wordH 0x32 m
  | .mixApply b m => wordL 0x33 b m
  | .mixRecall => wordN 0x34
  | .animBoot => wordN 0x40
  | .animBrinit f => wordW 0x41 f
  | .animBren => wordN 0x42
  | .animStop => wordN 0x43
  | .animBlink => wordN 0x44
  | .animTick => wordN 0x45
  | .animStep => wordN 0x46

/-- The instruction the decoder reads from an opcode-table row's word: one length, 32 bits (R80), so every bit above
`nbits` is 0 and a row of more than 32 bits is none of the table's (log 21). -/
def decodeTableWord (nbits w : Nat) : Option Instr :=
  if 32 < nbits then none
  else
    match decode (BitVec.ofNat 32 (w % 2 ^ nbits)) with
    | .ok i => some i
    | .error _ => none

/-- The mnemonic of R84. -/
def mnemonic : Instr → String
  | .nop => "NOP"
  | .rdreg _ => "RDREG"
  | .ptCalrd => "PT.CALRD"
  | .ptCalvfy => "PT.CALVFY"
  | .ptInit => "PT.INIT"
  | .ptTemp => "PT.TEMP"
  | .rhRead => "RH.READ"
  | .slInit => "SL.INIT"
  | .slTemp => "SL.TEMP"
  | .pwmInit => "PWM.INIT"
  | .pwmSetch _ _ => "PWM.SETCH"
  | .pwmSetgrp _ _ => "PWM.SETGRP"
  | .pwmPct2duty _ => "PWM.PCT2DUTY"
  | .lampLoad _ _ => "LAMP.LOAD"
  | .lampSetb _ => "LAMP.SETB"
  | .lampSetct _ => "LAMP.SETCT"
  | .mixApply _ _ => "MIX.APPLY"
  | .mixRecall => "MIX.RECALL"
  | .animBoot => "ANIM.BOOT"
  | .animBrinit _ => "ANIM.BRINIT"
  | .animBren => "ANIM.BREN"
  | .animStop => "ANIM.STOP"
  | .animBlink => "ANIM.BLINK"
  | .animTick => "ANIM.TICK"
  | .animStep => "ANIM.STEP"

/-- The operands in the order of R84, as numbers. -/
def operands : Instr → List Nat
  | .rdreg r => [r.toNat]
  | .pwmSetch a d => [a.toNat, d.toNat]
  | .pwmSetgrp a d => [a.toNat, d.toNat]
  | .pwmPct2duty p => [p.toNat]
  | .lampLoad b m => [b.toNat, m.toNat]
  | .lampSetb b => [b.toNat]
  | .lampSetct m => [m.toNat]
  | .mixApply b m => [b.toNat, m.toNat]
  | .animBrinit f => [f.toNat]
  | .nop | .ptCalrd | .ptCalvfy | .ptInit | .ptTemp | .rhRead | .slInit | .slTemp | .pwmInit | .mixRecall
  | .animBoot | .animBren | .animStop | .animBlink | .animTick | .animStep => []

/-- The assembler line of R87: the mnemonic, then the operands separated by commas, in decimal. -/
def assembly (i : Instr) : String :=
  match operands i with
  | [] => mnemonic i
  | ops => mnemonic i ++ " " ++ String.intercalate ", " (ops.map toString)

/-- The exact expansions of R88. -/
def expandPseudo : Pseudo → List Instr
  | .animBreath f => [.animBrinit f, .animBren]
  | .pwmOff => [.pwmSetgrp 2 0]
  | .lampSet b m => [.lampLoad b m, .mixRecall]

end Sys2Proof
end

