-- ==== Sys2Proof/Config.lean ====
section
/-! DEFINITION. What an implementation fixes: the parameter record of 00_scope.md R9, its reference configuration,
the constants the spec gives no choice in, and the free values of the bus oracle. -/

namespace Sys2Proof

/-- BOOT_VARIANT of 00_scope.md R9. -/
inductive BootVariant where
  | ramp
  | trailSpin
deriving DecidableEq, Repr

/-- The configuration record P of 00_scope.md R9: its OPEN fields and the decided ones that the spec treats as
parameters (93's U1, U4; R10 for BLINK_ON_PCT). The fixed ones are constants of `Config` (log 25).
No operation writes it. -/
structure Params where
  groupSize : Nat
  amberCh : List Nat
  whiteCh : List Nat
  kMin : Nat
  kMax : Nat
  defaultBrightness : Byte
  defaultMireds : Half
  promReadCount : Nat
  promCmdBase : Byte
  promCmdStride : Byte
  ptAddr : DevAddr
  ptCmdConvD2 : Byte
  ptCmdAdcRead : Byte
  rhAddr : DevAddr
  rhCmdMeasure : Byte
  slAddr : DevAddr
  slRegTemp : Byte
  slRegConfig : Byte
  slStandbyMask : Byte
  slWakeValue : Byte
  pwmAddr : DevAddr
  regMode1 : Byte
  regMode2 : Byte
  regLedout0 : Byte
  regLedout1 : Byte
  regPwmBase : Byte
  mode1Value : Byte
  mode2Value : Byte
  ledoutValue : Byte
  /-- A lower bound on real time; no rule reads it (70_reset_and_hazards.md R262). -/
  tPwmSettleMs : Nat
  /-- The tick source's period; no rule reads it (60_exceptions.md R236). -/
  tickPeriodMs : Nat
  bootVariant : BootVariant
  rampStepPct : Nat
  rampDelayMs : Nat
  spinRotations : Nat
  spinHeadPct : Nat
  spinTrailStepPct : Nat
  spinDelayMs : Nat
  blinkCount : Nat
  blinkOnPct : Nat
  blinkOnMs : Nat
  blinkOffMs : Nat
deriving DecidableEq, Repr

/-- One request on the bus port: the four primitives of 20_memory.md R52 to R55. -/
inductive BusRequest where
  /-- BusWrite: `reg`, then the bytes, to device `addr` (R52). -/
  | write (addr : DevAddr) (reg : Byte) (bytes : List Byte)
  /-- BusRead: `n` bytes with no register byte sent (R53). -/
  | read (addr : DevAddr) (n : Nat)
  /-- BusWriteRead: `reg`, then `n` bytes received, in one transaction (R54). -/
  | writeRead (addr : DevAddr) (reg : Byte) (n : Nat)
  /-- BusProbe (R55); no operation of the block uses it. -/
  | probe (addr : DevAddr)
deriving DecidableEq, Repr

namespace Config

/-- N_CH, fixed: "an 8-channel PWM controller" (R9). -/
def nCh : Nat := 8

/-- ALL_CH, decided by D18 (R9). -/
def allCh : List Nat := [0, 1, 2, 3, 4, 5, 6, 7]

/-- CRC_POLY, decided by D11 (R9, 40_calibration_conversion.md R106). PRESUMED by the spec itself (G1). -/
def crcPoly : Half := 0x3000

/-- The fixed delays of R9 in milliseconds: lower bounds on real time that no rule reads (R257, R262; log 11). -/
def tPromSettleMs : Nat := 1
/-- T_CONV_PT_MS (R9). -/
def tConvPtMs : Nat := 9
/-- T_CONV_RH_MS (R9). -/
def tConvRhMs : Nat := 20
/-- T_WAKE_MS (R9). -/
def tWakeMs : Nat := 200

/-- REFCFG, the reference column of R9. DESIGN CHOICE as the configuration of `State.reset`: the spec leaves the
OPEN rows to the model's user and no rule depends on these values (log 1). -/
def refcfg : Params where
  groupSize := 4
  amberCh := [0, 1, 2, 3]
  whiteCh := [4, 5, 6, 7]
  kMin := 2200
  kMax := 5000
  defaultBrightness := 128
  defaultMireds := 278
  promReadCount := 8
  promCmdBase := 0xA0
  promCmdStride := 2
  ptAddr := 0x77
  ptCmdConvD2 := 0x58
  ptCmdAdcRead := 0x00
  rhAddr := 0x40
  rhCmdMeasure := 0xF5
  slAddr := 0x4D
  slRegTemp := 0x00
  slRegConfig := 0x01
  slStandbyMask := 0x80
  slWakeValue := 0x00
  pwmAddr := 0x60
  regMode1 := 0x00
  regMode2 := 0x01
  regLedout0 := 0x0C
  regLedout1 := 0x0D
  regPwmBase := 0x02
  mode1Value := 0x00
  mode2Value := 0x04
  ledoutValue := 0xAA
  tPwmSettleMs := 10
  tickPeriodMs := 20
  bootVariant := .ramp
  rampStepPct := 5
  rampDelayMs := 20
  spinRotations := 3
  spinHeadPct := 100
  spinTrailStepPct := 25
  spinDelayMs := 60
  blinkCount := 3
  blinkOnPct := 100
  blinkOnMs := 200
  blinkOffMs := 200

/-- FREE VALUE (log 5): whether the transaction with this draw number succeeds, where the state's oracle script
does not say (20_memory.md R51, 93's U18). -/
opaque oracleOk : Nat → BusRequest → Bool

/-- FREE VALUE (log 5): byte number `k` of the answer to a successful read with this draw number, where the
state's oracle script does not say (20_memory.md R51, 93's U19). -/
opaque oracleByte : Nat → BusRequest → Nat → Byte

end Config

end Sys2Proof
end

