-- ==== Sys2Proof/Machine/State.lean ====
section
/-! DEFINITION. The state of the SCC block (10_state.md R20), the reasons a step can stop, and the state after
reset (R35). Plain data throughout. -/

namespace Sys2Proof.Machine

/-- The coefficient store C[0..7]: eight u16 slots, slot i holding PROM word i (10_state.md R21). -/
structure Coeffs where
  c0 : Half
  c1 : Half
  c2 : Half
  c3 : Half
  c4 : Half
  c5 : Half
  c6 : Half
  c7 : Half
deriving DecidableEq, Repr

/-- ANIM_STATE: the four states of 10_state.md R25. -/
inductive AnimState where
  | idle
  | breathing
  | bootSequence
  | confirmationBlink
deriving DecidableEq, Repr

/-- The statuses of 60_exceptions.md R220. `storeError` is reserved: no operation ends with it (R224). -/
inductive Status where
  | ok
  | busError
  | invalidArgument
  | calibrationError
  | storeError
deriving DecidableEq, Repr

/-- The response every operation ends with (30_encoding.md R85). -/
structure Response where
  status : Status
  value : Word
deriving DecidableEq, Repr

/-- A response and the source it was returned to (30_encoding.md R85). -/
structure Delivery where
  dest : Source
  response : Response
deriving DecidableEq, Repr

/-- The kinds of transaction of 20_memory.md R57: BusWrite W, BusRead R, BusWriteRead WR, BusProbe P. -/
inductive BusKind where
  | W | R | WR | P
deriving DecidableEq, Repr

/-- One entry of the event history H (20_memory.md R57): the bytes are those written (W) or received (R, WR). -/
structure Transaction where
  kind : BusKind
  addr : DevAddr
  reg : Option Byte
  bytes : List Byte
  ok : Bool
deriving DecidableEq, Repr

/-- One scripted answer of the bus oracle (20_memory.md R51): the transaction fails, or it succeeds and a read
receives these bytes. Bytes the script leaves out are free values (log 5). -/
inductive BusAnswer where
  | fail
  | ok (bytes : List Byte)
deriving DecidableEq, Repr

/-- A partial map from register numbers to bytes, as a list of cells: registers strictly rising and below 256, an
unlisted register holding no value (10_state.md R32, R36; log 7). -/
abbrev Memory := List Host.Cell

/-- The reasons the machine stops with a fault. -/
inductive Fault where
  /-- ANIM.STEP while SEQ_IDX is past the last frame of the running sequence. 10_state.md R28 excludes it in every run;
  the spec gives no frame to write there. Raised by `execAnimStep`. Safe (log 12). -/
  | noSuchFrame
deriving DecidableEq, Repr

/-- The reasons a word is refused. -/
inductive Refusal where
  /-- An operation without a meaning yet. Raised by `exec` only; no operation of this model is left so. Safe. -/
  | notModelled (mnemonic : String)
  /-- The configuration breaks 00_scope.md R10, "which the model checks before it runs" (93's U3, U11: refuse).
  Raised by `step`. Safe (log 2). -/
  | illFormedConfig
deriving DecidableEq, Repr

/-- The state record of 10_state.md R20, the configuration it runs under, and the model's own fields. -/
@[ext]
structure State where
  /-- The configuration P (00_scope.md R9). No operation writes it (R10; log 1). -/
  cfg : Params
  /-- C[0..7] when CAL_LOADED is 1; no value when it is 0 (10_state.md R21, R22, R36; log 6). -/
  cal : Option Coeffs
  /-- CAL_VALID (10_state.md R22). -/
  calValid : Bool
  /-- LAMP_BRIGHTNESS (10_state.md R23). -/
  lampBrightness : Byte
  /-- LAMP_MIREDS (10_state.md R23). -/
  lampMireds : Half
  /-- ANIM_STATE (10_state.md R25). -/
  animState : AnimState
  /-- PHASE (10_state.md R27). -/
  phase : Turn
  /-- FREQ (10_state.md R27). -/
  freq : Turn
  /-- SEQ_IDX (10_state.md R28). -/
  seqIdx : Half
  /-- PWM_EN, the level of the power-enable line (10_state.md R29). -/
  pwmEn : Bool
  /-- PWMDEV, the PWM controller's register file (10_state.md R32). -/
  pwmdev : Memory
  /-- H, every bus transaction in the order issued (20_memory.md R57). -/
  history : List Transaction
  /-- The model's: the merged input still to come (60_exceptions.md R228; log 3). -/
  input : List Input
  /-- The model's: the source of the word being performed (log 9). -/
  requester : Source
  /-- The model's: the responses delivered, oldest first (30_encoding.md R85; log 9). -/
  responses : List Delivery
  /-- The model's: the oracle's scripted answers still to come (20_memory.md R51; log 5). -/
  oracle : List BusAnswer
  /-- The model's: how many oracle draws were made; index of the free values (log 5). -/
  draws : Nat
deriving DecidableEq, Repr

/-- CAL_LOADED (10_state.md R22): 1 exactly when C[0..7] holds a complete PROM read. -/
def State.calLoaded (s : State) : Bool := s.cal.isSome

/-- The source's `enabled`, a derived view (10_state.md R26). -/
def State.breathingEnabled (s : State) : Bool := s.animState == .breathing

/-- The state after reset under configuration `p` (10_state.md R35). The model's own fields start empty
(DESIGN CHOICE, log 24). -/
def State.resetWith (p : Params) : State where
  cfg := p
  cal := none
  calValid := false
  lampBrightness := p.defaultBrightness
  lampMireds := p.defaultMireds
  animState := .idle
  phase := 0
  freq := 0
  seqIdx := 0
  pwmEn := false
  pwmdev := []
  history := []
  input := []
  requester := .host
  responses := []
  oracle := []
  draws := 0

/-- The state after reset (10_state.md R35) under the reference configuration (DESIGN CHOICE, log 1). -/
def State.reset : State := State.resetWith Config.refcfg

end Sys2Proof.Machine
end

