-- ==== Sys2Proof/Machine/Operands.lean ====
section
/-! DEFINITION. Operand forms and the arithmetic of 00_scope.md R12: byte assembly, narrowing to a response value,
rounding, the group selector and the percent conversion. -/

namespace Sys2Proof.Machine

/-- clamp(v, lo, hi) of 00_scope.md R12. -/
def clamp (v lo hi : Nat) : Nat := if v < lo then lo else if hi < v then hi else v

/-- trunc_div of 00_scope.md R12: the quotient rounded toward zero, for a positive divisor. -/
def truncDiv (a b : Int) : Int := if 0 ≤ a then a / b else -(-a / b)

/-- round_half_up of 00_scope.md R12: floor_div(2n + d, 2d). -/
def roundHalfUp (n d : Nat) : Nat := (2 * n + d) / (2 * d)

/-- A multi-byte receive assembled most significant byte first, b0 being the byte received first
(20_memory.md R60; PRESUMED by the spec, log 14). -/
def beNat (bytes : List Byte) : Nat := bytes.foldl (fun acc b => acc * 256 + b.toNat) 0

/-- "a signed result is its two's-complement s32 image" (30_encoding.md R85). -/
def s32 (v : Int) : Word := BitVec.ofInt 32 v

/-- Slot `i` of C[0..7] (10_state.md R21). -/
def Coeffs.get (c : Coeffs) (i : Nat) : Half :=
  match i with
  | 0 => c.c0
  | 1 => c.c1
  | 2 => c.c2
  | 3 => c.c3
  | 4 => c.c4
  | 5 => c.c5
  | 6 => c.c6
  | _ => c.c7

/-- All eight slots in order. -/
def Coeffs.words (c : Coeffs) : List Half := [c.c0, c.c1, c.c2, c.c3, c.c4, c.c5, c.c6, c.c7]

/-- Eight slots from the words read, the missing ones zero ("zero fill", 40_calibration_conversion.md R104). -/
def Coeffs.ofWords (ws : List Half) : Coeffs :=
  ⟨ws.getD 0 0, ws.getD 1 0, ws.getD 2 0, ws.getD 3 0, ws.getD 4 0, ws.getD 5 0, ws.getD 6 0, ws.getD 7 0⟩

/-- The three channel lists PWM.SETGRP can name: 0 AMBER_CH, 1 WHITE_CH, 2 ALL_CH (41_pwm_driver.md R148). -/
def groupOf (p : Params) (selector : Byte) : Option (List Nat) :=
  match selector.toNat with
  | 0 => some p.amberCh
  | 1 => some p.whiteCh
  | 2 => some Config.allCh
  | _ => none

/-- percent_to_duty(pct) = floor_div(pct * 255 + 50, 100) (41_pwm_driver.md R150). -/
def percentToDuty (pct : Nat) : Byte := BitVec.ofNat 8 ((pct * 255 + 50) / 100)

/-- The value of the mixer's response: [7:0] white, [15:8] amber, [16] applied (42_mixing.md R162). -/
def mixValue (amber white : Byte) (applied : Bool) : Word :=
  0#15 ++ BitVec.ofBool applied ++ amber ++ white

/-- The value of an acting tick: [7:0] duty, [16] = 1 (43_animation.md R192). -/
def tickValue (duty : Byte) : Word := 0#15 ++ 1#1 ++ 0#8 ++ duty

/-- The value of a performed frame: [15:0] its index, [16] = 1, [17] = 1 when it was the last (43_animation.md R194). -/
def stepValue (idx : Half) (last : Bool) : Word := 0#14 ++ BitVec.ofBool last ++ 1#1 ++ idx

end Sys2Proof.Machine
end

