-- ==== Sys2Proof/Machine/Ops.lean ====
section
/-! DEFINITION. The named operations over the state: the PWM controller's register file, the bus primitives of
20_memory.md R52 to R58, the response of 30_encoding.md R85, the input and reset. -/

namespace Sys2Proof.Machine

/-! ## The register file PWMDEV (10_state.md R32) -/

/-- The canonical form: registers strictly rising and each a u8. -/
def Memory.wf : Memory → Bool
  | [] => true
  | [(a, _)] => decide (a < 256)
  | (a, _) :: (b, v) :: rest => decide (a < b) && Memory.wf ((b, v) :: rest)

/-- The value of a register, `none` being "no value" (10_state.md R36). -/
def Memory.read : Memory → Nat → Option Byte
  | [], _ => none
  | (a, v) :: rest, r => if a = r then some v else Memory.read rest r

/-- PWMDEV[r] <- v, keeping the canonical form. -/
def Memory.write : Memory → Nat → Byte → Memory
  | [], r, v => [(r, v)]
  | (a, u) :: rest, r, v =>
    if r < a then (r, v) :: (a, u) :: rest
    else if r = a then (r, v) :: rest
    else (a, u) :: Memory.write rest r v

/-- DUTY[ch] = PWMDEV[REG_PWM_BASE + ch] (10_state.md R32); the register number is a u8. -/
def dutyReg (p : Params) (ch : Nat) : Byte := p.regPwmBase + BitVec.ofNat 8 ch

/-- DUTY[ch] of a state, `none` being "no value". -/
def State.duty (s : State) (ch : Nat) : Option Byte := Memory.read s.pwmdev (dutyReg s.cfg ch).toNat

/-! ## The bus port (20_memory.md section 2) -/

/-- How many bytes a request receives. -/
def bytesExpected : BusRequest → Nat
  | .write _ _ _ => 0
  | .read _ n => n
  | .writeRead _ _ n => n
  | .probe _ => 0

/-- The oracle's answer to a request (20_memory.md R51): `none` is BusError, `some` the bytes received. The script
decides what it covers; the rest are the free values of Config (log 5). For a probe, `none` is the answer false of
R55 and `some []` the answer true, drawn like a transaction's success (DESIGN CHOICE, log 27). -/
def busAnswer (q : BusRequest) (s : State) : Option (List Byte) :=
  match s.oracle with
  | .fail :: _ => none
  | .ok bytes :: _ =>
    some ((List.range (bytesExpected q)).map fun k => bytes.getD k (Config.oracleByte s.draws q k))
  | [] =>
    if Config.oracleOk s.draws q then some ((List.range (bytesExpected q)).map (Config.oracleByte s.draws q)) else none

/-- The history entry of a request and its answer (20_memory.md R57; bytes of a failed read: log 10). A probe answered
false is recorded as a failed entry (DESIGN CHOICE, log 27: R55 gives the probe no BusError and R57 records ok or
BusError). -/
def historyEntry (q : BusRequest) (a : Option (List Byte)) : Transaction :=
  match q with
  | .write addr reg bytes => ⟨.W, addr, some reg, bytes, a.isSome⟩
  | .read addr _ => ⟨.R, addr, none, a.getD [], a.isSome⟩
  | .writeRead addr reg _ => ⟨.WR, addr, some reg, a.getD [], a.isSome⟩
  | .probe addr => ⟨.P, addr, none, [], a.isSome⟩

/-- The effect of one transaction on the PWM controller (20_memory.md R58): a successful one-byte write to PWM_ADDR sets
PWMDEV[reg]; nothing else changes it, a failed write in particular (log 8). -/
def deviceEffect (p : Params) (t : Transaction) (dev : Memory) : Memory :=
  match t with
  | ⟨.W, addr, some reg, [v], true⟩ => if addr = p.pwmAddr then Memory.write dev reg.toNat v else dev
  | _ => dev

/-- One transaction, any of the four primitives of R52 to R55: the oracle answers, H records it, the device takes its
effect. There is no retry (20_memory.md R56). -/
def transact (q : BusRequest) (s : State) : Option (List Byte) × State :=
  let a := busAnswer q s
  let t := historyEntry q a
  (a, { s with
        pwmdev := deviceEffect s.cfg t s.pwmdev
        history := s.history ++ [t]
        oracle := s.oracle.tail
        draws := s.draws + 1 })

/-! ## Ending an operation -/

/-- `respond(OK, v)` and `raise <Status>(v)` of 00_scope.md R12 in one: the operation's one response, returned to the
source that sent the word (30_encoding.md R85). In the place of taking an exception: nothing else is saved or
changed (60_exceptions.md R231). -/
def respond (st : Status) (v : Word) (s : State) : State :=
  { s with responses := s.responses ++ [⟨s.requester, ⟨st, v⟩⟩] }

/-- A transaction of an operation that ends at its first failure (40_calibration_conversion.md R100): BusError with value
0, or what the operation does next with the bytes received. -/
def onBus (q : BusRequest) (s : State) (next : List Byte → State → State) : State :=
  match busAnswer q s with
  | none => respond .busError 0 (transact q s).2
  | some bytes => next bytes (transact q s).2

/-- What the host receives of a delivered response (60_exceptions.md R226): its own responses in full; from the tick
source and the sequencer only a status other than OK, as a log entry (log 26). -/
def hostView (d : Delivery) : Option Delivery :=
  match d.dest with
  | .host => some d
  | .tick | .sequencer => if d.response.status = .ok then none else some ⟨d.dest, ⟨d.response.status, 0⟩⟩

/-- All the host has received. -/
def State.hostLog (s : State) : List Delivery := s.responses.filterMap hostView

/-! ## The input -/

/-- The block takes the next word of the merged input; `rest` is what is still to come (60_exceptions.md R227). -/
def accept (src : Source) (rest : List Input) (s : State) : State :=
  { s with input := rest, requester := src }

/-- Reset applied between two operations (70_reset_and_hazards.md R250): the block's state becomes that of
10_state.md R35. The configuration, the oracle and the input still to come are not the block's state (log 4). -/
def applyReset (rest : List Input) (s : State) : State :=
  { State.resetWith s.cfg with
    input := rest
    requester := s.requester
    responses := s.responses
    oracle := s.oracle
    draws := s.draws }

end Sys2Proof.Machine
end

