-- ==== Sys2Proof/Machine/Driver.lean ====
section
/-! DEFINITION. The PWM channel driver (41_pwm_driver.md): `set_channel`, `set_group`, bring-up and the four host-facing
operations. -/

namespace Sys2Proof.Machine

/-- set_channel (R140). It does not look at ANIM_STATE (R154). -/
def setChannel (ch : Nat) (duty : Byte) (s : State) : Status × State :=
  if Config.nCh - 1 < ch then (.invalidArgument, s)
  else
    let r := transact (.write s.cfg.pwmAddr (dutyReg s.cfg ch) [duty]) s
    (if r.1.isSome then .ok else .busError, r.2)

/-- What a best-effort run of channel writes leaves: the status of the first failure, the number of successes, the
state. -/
structure GroupResult where
  status : Status
  count : Nat
  state : State
deriving DecidableEq, Repr

/-- The loop of `set_group` (R141) and `apply_frame` (43_animation.md R193): every (channel, duty) pair is written in
order, a failure stopping nothing. -/
def writeChannels : List (Nat × Byte) → State → GroupResult
  | [], s => ⟨.ok, 0, s⟩
  | (ch, duty) :: rest, s =>
    let w := setChannel ch duty s
    let r := writeChannels rest w.2
    ⟨if w.1 = .ok then r.status else w.1, if w.1 = .ok then r.count + 1 else r.count, r.state⟩

/-- set_group (R141). -/
def setGroup (chs : List Nat) (duty : Byte) (s : State) : GroupResult :=
  writeChannels (chs.map fun ch => (ch, duty)) s

/-- The 12 bring-up writes of PWM.INIT in order (R142). -/
def initSteps (p : Params) : List (Byte × Byte) :=
  [(p.regMode1, p.mode1Value), (p.regMode2, p.mode2Value),
   (p.regLedout0, p.ledoutValue), (p.regLedout1, p.ledoutValue)] ++
  Config.allCh.map fun ch => (dutyReg p ch, 0)

/-- The bring-up writes, the first failure ending the operation (R142). -/
def writeSteps : List (Byte × Byte) → State → (State → State) → State
  | [], s, next => next s
  | (reg, v) :: rest, s, next =>
    onBus (.write s.cfg.pwmAddr reg [v]) s fun _ s1 => writeSteps rest s1 next

/-- PWM.INIT (R142): the power-enable line first, and it stays asserted whatever follows. -/
def execPwmInit (s : State) : Host.Outcome State Fault Refusal :=
  .next (writeSteps (initSteps s.cfg) { s with pwmEn := true } fun s1 => respond .ok 0 s1)

/-- PWM.SETCH (R145). -/
def execPwmSetch (a d : Byte) (s : State) : Host.Outcome State Fault Refusal :=
  .next (respond (setChannel a.toNat d s).1 0 (setChannel a.toNat d s).2)

/-- PWM.SETGRP (R148): the count of successful writes is returned with an error too. -/
def execPwmSetgrp (a d : Byte) (s : State) : Host.Outcome State Fault Refusal :=
  .next <|
    match groupOf s.cfg a with
    | none => respond .invalidArgument 0 s
    | some chs =>
      let r := setGroup chs d s
      respond r.status (BitVec.ofNat 32 r.count) r.state

/-- PWM.PCT2DUTY (R151). -/
def execPwmPct2duty (p : Byte) (s : State) : Host.Outcome State Fault Refusal :=
  .next <|
    if 100 < p.toNat then respond .invalidArgument 0 s
    else respond .ok ((percentToDuty p.toNat).setWidth 32) s

end Sys2Proof.Machine
end

