-- ==== Sys2Proof/Machine/Animation.lean ====
section
/-! DEFINITION. The animation timer and state machine (43_animation.md): the waveform, the two frame sequences and the
seven operations. -/

namespace Sys2Proof.Machine

/-! ## The breathing waveform -/

/-- SINE_PCT[0..255] (R183), sixteen entries a row as the spec prints them. -/
def sinePct : List Nat :=
  ([50, 51, 52, 54, 55, 56, 57, 59, 60, 61, 62, 63, 65, 66, 67, 68] ++
   [69, 70, 71, 72, 74, 75, 76, 77, 78, 79, 80, 81, 82, 83, 84, 84] ++
   [85, 86, 87, 88, 89, 89, 90, 91, 92, 92, 93, 94, 94, 95, 95, 96] ++
   [96, 97, 97, 97, 98, 98, 99, 99, 99, 99, 99, 100, 100, 100, 100, 100] ++
   [100, 100, 100, 100, 100, 100, 99, 99, 99, 99, 99, 98, 98, 97, 97, 97] ++
   [96, 96, 95, 95, 94, 94, 93, 92, 92, 91, 90, 89, 89, 88, 87, 86] ++
   [85, 84, 84, 83, 82, 81, 80, 79, 78, 77, 76, 75, 74, 72, 71, 70] ++
   [69, 68, 67, 66, 65, 63, 62, 61, 60, 59, 57, 56, 55, 54, 52, 51] ++
   [50, 49, 48, 46, 45, 44, 43, 41, 40, 39, 38, 37, 35, 34, 33, 32] ++
   [31, 30, 29, 28, 26, 25, 24, 23, 22, 21, 20, 19, 18, 17, 16, 16] ++
   [15, 14, 13, 12, 11, 11, 10, 9, 8, 8, 7, 6, 6, 5, 5, 4] ++
   [4, 3, 3, 3, 2, 2, 1, 1, 1, 1, 1, 0, 0, 0, 0, 0] ++
   [0, 0, 0, 0, 0, 0, 1, 1, 1, 1, 1, 2, 2, 3, 3, 3] ++
   [4, 4, 5, 5, 6, 6, 7, 8, 8, 9, 10, 11, 11, 12, 13, 14] ++
   [15, 16, 16, 17, 18, 19, 20, 21, 22, 23, 24, 25, 26, 28, 29, 30] ++
   [31, 32, 33, 34, 35, 37, 38, 39, 40, 41, 43, 44, 45, 46, 48, 49])

/-- breath_pct(PHASE) = SINE_PCT[PHASE[23:16]] (R182). -/
def breathPct (phase : Turn) : Nat := sinePct.getD (phase.extractLsb' 16 8).toNat 0

/-- breath_duty(PHASE) (R182). -/
def breathDuty (phase : Turn) : Byte := percentToDuty (breathPct phase)

/-! ## The frame sequences -/

/-- A frame: one percent level per channel of ALL_CH, and the lower bound on the time before the next frame (R190). -/
structure Frame where
  levels : List Nat
  holdMs : Nat
deriving DecidableEq, Repr

/-- All channels at one level. -/
def uniformFrame (level holdMs : Nat) : Frame := ⟨List.replicate Config.nCh level, holdMs⟩

/-- U of R190: 0, s, 2s, ..., 100. -/
def rampUpLevels (p : Params) : List Nat :=
  (List.range ((100 + p.rampStepPct - 1) / p.rampStepPct + 1)).map fun k => min 100 (k * p.rampStepPct)

/-- ramp_levels = U ++ D, D being U reversed without its first element (R190). -/
def rampLevels (p : Params) : List Nat := rampUpLevels p ++ (rampUpLevels p).reverse.tail

/-- ramp_frames (R190). -/
def rampFrames (p : Params) : List Frame := (rampLevels p).map fun l => uniformFrame l p.rampDelayMs

/-- spin_levels(h) (R190): the directed distance (h - p) mod N_CH, so the trail follows the head. -/
def spinLevels (p : Params) (h : Nat) : List Nat :=
  (List.range Config.nCh).map fun pos =>
    p.spinHeadPct - (h + Config.nCh - pos) % Config.nCh * p.spinTrailStepPct

/-- spin_frames (R190): rotations outer, heads inner, both ascending. -/
def spinFrames (p : Params) : List Frame :=
  (List.range p.spinRotations).flatMap fun _ =>
    (List.range Config.nCh).map fun h => ⟨spinLevels p h, p.spinDelayMs⟩

/-- boot_frames(P) (R190). -/
def bootFrames (p : Params) : List Frame :=
  match p.bootVariant with
  | .ramp => rampFrames p
  | .trailSpin => spinFrames p ++ rampFrames p

/-- blink_frames(P) (R191). -/
def blinkFrames (p : Params) : List Frame :=
  uniformFrame 0 0 ::
    (List.range p.blinkCount).flatMap fun _ =>
      [uniformFrame p.blinkOnPct p.blinkOnMs, uniformFrame 0 p.blinkOffMs]

/-- The frames of the running sequence; none in Idle and Breathing (R194). -/
def runningFrames (s : State) : Option (List Frame) :=
  match s.animState with
  | .bootSequence => some (bootFrames s.cfg)
  | .confirmationBlink => some (blinkFrames s.cfg)
  | .idle => none
  | .breathing => none

/-- apply_frame (R193): eight writes in ring order, best effort. -/
def applyFrame (levels : List Nat) (s : State) : GroupResult :=
  writeChannels (Config.allCh.zip (levels.map percentToDuty)) s

/-! ## The operations -/

/-- A transition: one write of ANIM_STATE together with SEQ_IDX <- 0 (R180). -/
def enterState (a : AnimState) (s : State) : State := { s with animState := a, seqIdx := 0 }

/-- ANIM.BOOT (R185). -/
def execAnimBoot (s : State) : Host.Outcome State Fault Refusal :=
  .next (respond .ok 0 (enterState .bootSequence s))

/-- ANIM.BRINIT (R186). -/
def execAnimBrinit (f : Turn) (s : State) : Host.Outcome State Fault Refusal :=
  .next (respond .ok 0 { s with phase := 0, freq := f })

/-- ANIM.BREN (R187). -/
def execAnimBren (s : State) : Host.Outcome State Fault Refusal :=
  .next (respond .ok 0 (enterState .breathing s))

/-- ANIM.STOP (R188). -/
def execAnimStop (s : State) : Host.Outcome State Fault Refusal :=
  .next (respond .ok 0 (enterState .idle s))

/-- ANIM.BLINK (R189). -/
def execAnimBlink (s : State) : Host.Outcome State Fault Refusal :=
  .next (respond .ok 0 (enterState .confirmationBlink s))

/-- ANIM.TICK (R192): the phase advances first, and stays advanced whatever the bus does. -/
def execAnimTick (s : State) : Host.Outcome State Fault Refusal :=
  .next <|
    if s.animState = .breathing then
      let phase := s.phase + s.freq
      let r := setGroup Config.allCh (breathDuty phase) { s with phase := phase }
      respond r.status (tickValue (breathDuty phase)) r.state
    else respond .ok 0 s

/-- ANIM.STEP (R194): one frame of the running sequence; after the last the state is Idle. SEQ_IDX past the last frame,
which 10_state.md R28 excludes, is a fault (log 12). -/
def execAnimStep (s : State) : Host.Outcome State Fault Refusal :=
  match runningFrames s with
  | none => .next (respond .ok 0 s)
  | some frames =>
    match frames[s.seqIdx.toNat]? with
    | none => .fault .noSuchFrame
    | some frame =>
      let r := applyFrame frame.levels s
      if s.seqIdx.toNat + 1 = frames.length then
        .next (respond r.status (stepValue s.seqIdx true) (enterState .idle r.state))
      else
        .next (respond r.status (stepValue s.seqIdx false) { r.state with seqIdx := s.seqIdx + 1 })

end Sys2Proof.Machine
end

