-- ==== Sys2Proof/Machine/Calibration.lean ====
section
/-! DEFINITION. The calibration converter (40_calibration_conversion.md): the PROM read, the checksum, the
conversions, and the seven sensor operations. -/

namespace Sys2Proof.Machine

/-! ## The coefficient PROM -/

/-- PROM_CMD_BASE + PROM_CMD_STRIDE * i, "taken mod 256" (R103). -/
def promCmd (p : Params) (i : Nat) : Byte := p.promCmdBase + p.promCmdStride * BitVec.ofNat 8 i

/-- prom_word(i) (R103): command write, settle delay (not modelled, R262), 2-byte receive. -/
def promWord (i : Nat) (s : State) (next : Half → State → State) : State :=
  onBus (.write s.cfg.ptAddr (promCmd s.cfg i) []) s fun _ s1 =>
    onBus (.read s1.cfg.ptAddr 2) s1 fun bytes s2 => next (BitVec.ofNat 16 (beNat bytes)) s2

/-- `n` PROM words from word `i` on, ascending (R104). -/
def promWords : (n i : Nat) → State → (List Half → State → State) → State
  | 0, _, s, next => next [] s
  | n + 1, i, s, next =>
    promWord i s fun w s1 => promWords n (i + 1) s1 fun ws s2 => next (w :: ws) s2

/-- The body of PT.CALRD (R104): only when every word was read are the eight slots, CAL_LOADED and CAL_VALID written,
all in one step. `next` receives the new slots. -/
def readCalibration (s : State) (next : Coeffs → State → State) : State :=
  promWords s.cfg.promReadCount 0 s fun ws s1 =>
    next (Coeffs.ofWords ws) { s1 with cal := some (Coeffs.ofWords ws), calValid := false }

/-! ## The 4-bit checksum -/

/-- One of the 8 shift-XOR steps of R106. -/
def crcShift (rem : Half) : Half :=
  if rem.msb then (rem <<< 1) ^^^ Config.crcPoly else rem <<< 1

/-- One byte taken into the remainder, then 8 steps (R106). -/
def crcByte (rem : Half) (b : Byte) : Half :=
  crcShift (crcShift (crcShift (crcShift (crcShift (crcShift (crcShift (crcShift (rem ^^^ b.setWidth 16))))))))

/-- The 16 bytes in the order of R106: the high byte of each word, then its low byte; the low byte of the last word
is replaced by 0. -/
def crcBytes (c : Coeffs) : List Byte :=
  { c with c7 := c.c7 &&& 0xFF00 }.words.flatMap fun (w : Half) => [w.extractLsb' 8 8, w.extractLsb' 0 8]

/-- crc4 (R106): the top nibble of the remainder. -/
def crc4 (c : Coeffs) : BitVec 4 := ((crcBytes c).foldl crcByte 0).extractLsb' 12 4

/-- checksum_ok (R107): compared with the nibble C[7][3:0]. -/
def checksumOk (c : Coeffs) : Bool := crc4 c == c.c7.extractLsb' 0 4

/-! ## The conversions -/

/-- conv_temp (R111): hundredths of a degree Celsius; the product is exact, the division rounds toward zero. -/
def convTemp (raw c5 c6 : Nat) : Int :=
  2000 + truncDiv (((raw : Int) - (c5 : Int) * 256) * (c6 : Int)) (2 ^ 23)

/-- conv_rh (R121): 1/65536 percent, the two status bits of the 16-bit word cleared. -/
def convRh (b0 b1 : Byte) : Int :=
  125 * ((BitVec.ofNat 16 (beNat [b0, b1]) &&& 0xFFFC#16).toNat : Int) - 393216

/-! ## The operations -/

/-- PT.CALRD (R104). -/
def execPtCalrd (s : State) : Host.Outcome State Fault Refusal :=
  .next (readCalibration s fun _ s1 => respond .ok 0 s1)

/-- PT.CALVFY (R108). -/
def execPtCalvfy (s : State) : Host.Outcome State Fault Refusal :=
  .next <|
    match s.cal with
    | none => respond .calibrationError 0 s
    | some c =>
      if checksumOk c then respond .ok 1 { s with calValid := true }
      else respond .ok 0 { s with calValid := false }

/-- PT.INIT (R110): the body of PT.CALRD, then the checksum, a mismatch being CalibrationError. -/
def execPtInit (s : State) : Host.Outcome State Fault Refusal :=
  .next <| readCalibration s fun c s1 =>
    if checksumOk c then respond .ok 1 { s1 with calValid := true } else respond .calibrationError 0 s1

/-- PT.TEMP (R113): CalibrationError with no bus access unless the coefficients are verified. With CAL_VALID = 1 and no
coefficients, which R22 excludes, the same by 10_state.md R36 (log 13). -/
def execPtTemp (s : State) : Host.Outcome State Fault Refusal :=
  .next <|
    match s.calValid, s.cal with
    | true, some c =>
      onBus (.write s.cfg.ptAddr s.cfg.ptCmdConvD2 []) s fun _ s1 =>
        onBus (.writeRead s1.cfg.ptAddr s1.cfg.ptCmdAdcRead 3) s1 fun bytes s2 =>
          respond .ok (s32 (convTemp (beNat bytes) c.c5.toNat c.c6.toNat)) s2
    | _, _ => respond .calibrationError 0 s

/-- RH.READ (R120): the third byte is received and ignored. -/
def execRhRead (s : State) : Host.Outcome State Fault Refusal :=
  .next <|
    onBus (.write s.cfg.rhAddr s.cfg.rhCmdMeasure []) s fun _ s1 =>
      onBus (.read s1.cfg.rhAddr 3) s1 fun bytes s2 =>
        respond .ok (s32 (convRh (bytes.getD 0 0) (bytes.getD 1 0))) s2

/-- SL.INIT (R124): reads the config register and wakes a sensor in standby. -/
def execSlInit (s : State) : Host.Outcome State Fault Refusal :=
  .next <|
    onBus (.writeRead s.cfg.slAddr s.cfg.slRegConfig 1) s fun bytes s1 =>
      if bytes.getD 0 0 &&& s1.cfg.slStandbyMask ≠ 0 then
        onBus (.write s1.cfg.slAddr s1.cfg.slRegConfig [s1.cfg.slWakeValue]) s1 fun _ s2 => respond .ok 1 s2
      else respond .ok 0 s1

/-- SL.TEMP (R126): one byte, two's-complement whole degrees. -/
def execSlTemp (s : State) : Host.Outcome State Fault Refusal :=
  .next <|
    onBus (.writeRead s.cfg.slAddr s.cfg.slRegTemp 1) s fun bytes s1 =>
      respond .ok (s32 (bytes.getD 0 0).toInt) s1

end Sys2Proof.Machine
end

