-- ==== Sys2Proof/Machine/Mixer.lean ====
section
/-! DEFINITION. The lamp command and the colour/brightness mixer (42_mixing.md). -/

namespace Sys2Proof.Machine

/-- K of R160: floor_div(1000000, m), before the clamp. -/
def kelvinOf (m : Nat) : Nat := 1000000 / m

/-- Kc of R160: K clamped to K_MIN..K_MAX. -/
def mixKelvin (p : Params) (m : Nat) : Nat := clamp (kelvinOf m) p.kMin p.kMax

/-- The white duty of mix(b, m) (R160). -/
def mixWhite (p : Params) (b m : Nat) : Nat :=
  roundHalfUp (b * (mixKelvin p m - p.kMin)) (p.kMax - p.kMin)

/-- The amber duty of mix(b, m) (R160). -/
def mixAmber (p : Params) (b m : Nat) : Nat :=
  roundHalfUp (b * (p.kMax - mixKelvin p m)) (p.kMax - p.kMin)

/-- apply(b, m) (R162): the output gate, then the amber group, then the white group whatever the first gave. -/
def applyMix (b : Byte) (m : Half) (s : State) : Status × Word × State :=
  if m = 0 then (.invalidArgument, 0, s)
  else
    let amber : Byte := BitVec.ofNat 8 (mixAmber s.cfg b.toNat m.toNat)
    let white : Byte := BitVec.ofNat 8 (mixWhite s.cfg b.toNat m.toNat)
    if s.animState = .idle then
      let r1 := setGroup s.cfg.amberCh amber s
      let r2 := setGroup r1.state.cfg.whiteCh white r1.state
      (if r1.status = .ok then r2.status else r1.status, mixValue amber white true, r2.state)
    else (.ok, mixValue amber white false, s)

/-- `(s, v) <- apply(b, m)`, then the response: the end of every mixer operation (R164 to R167). -/
def applyAndRespond (b : Byte) (m : Half) (s : State) : State :=
  let r := applyMix b m s
  respond r.1 r.2.1 r.2.2

/-- LAMP.LOAD (R163). -/
def execLampLoad (b : Byte) (m : Half) (s : State) : Host.Outcome State Fault Refusal :=
  .next <|
    if m = 0 then respond .invalidArgument 0 s
    else respond .ok 0 { s with lampBrightness := b, lampMireds := m }

/-- LAMP.SETB (R164): the register is written before the output is attempted and stays written. -/
def execLampSetb (b : Byte) (s : State) : Host.Outcome State Fault Refusal :=
  .next (applyAndRespond b s.lampMireds { s with lampBrightness := b })

/-- LAMP.SETCT (R165). -/
def execLampSetct (m : Half) (s : State) : Host.Outcome State Fault Refusal :=
  .next <|
    if m = 0 then respond .invalidArgument 0 s
    else applyAndRespond s.lampBrightness m { s with lampMireds := m }

/-- MIX.APPLY (R166): the lamp registers are not touched. -/
def execMixApply (b : Byte) (m : Half) (s : State) : Host.Outcome State Fault Refusal :=
  .next (applyAndRespond b m s)

/-- MIX.RECALL (R167). -/
def execMixRecall (s : State) : Host.Outcome State Fault Refusal :=
  .next (applyAndRespond s.lampBrightness s.lampMireds s)

end Sys2Proof.Machine
end

