-- ==== Sys2Proof/Machine/Flags.lean ====
section
/-! DEFINITION. The block has no condition codes (10_state.md R30); its one-bit and enumerated state is seen as the
STATUS register, and its errors as status codes. -/

namespace Sys2Proof.Machine

/-- The encoding of ANIM_STATE (10_state.md R25). -/
def AnimState.code : AnimState → BitVec 2
  | .idle => 0
  | .breathing => 1
  | .bootSequence => 2
  | .confirmationBlink => 3

/-- The status codes of 60_exceptions.md R220, a u4. -/
def Status.code : Status → BitVec 4
  | .ok => 0
  | .busError => 1
  | .invalidArgument => 2
  | .calibrationError => 3
  | .storeError => 4

/-- Register 0x00 STATUS (10_state.md R31): [0] CAL_LOADED, [1] CAL_VALID, [3:2] ANIM_STATE, [4] PWM_EN. -/
def statusWord (s : State) : Word :=
  0#27 ++ BitVec.ofBool s.pwmEn ++ s.animState.code ++ BitVec.ofBool s.calValid ++ BitVec.ofBool s.calLoaded

/-- Register 0x01 LAMP (10_state.md R31): [15:0] LAMP_MIREDS, [23:16] LAMP_BRIGHTNESS. -/
def lampWord (s : State) : Word := 0#8 ++ s.lampBrightness ++ s.lampMireds

end Sys2Proof.Machine
end

