-- ==== Sys2Proof/Machine/System.lean ====
section
/-! DEFINITION. The system operations NOP and RDREG (41_pwm_driver.md section 6) and the meaning of an illegal word
(30_encoding.md R83). -/

namespace Sys2Proof.Machine

/-- NOP (41_pwm_driver.md R156). -/
def execNop (s : State) : Host.Outcome State Fault Refusal := .next (respond .ok 0 s)

/-- The answer of RDREG r (41_pwm_driver.md R157; the map is 10_state.md R31). -/
def readRegister (r : Byte) (s : State) : Status × Word :=
  match r.toNat with
  | 0x00 => (.ok, statusWord s)
  | 0x01 => (.ok, lampWord s)
  | 0x02 => (.ok, s.phase.setWidth 32)
  | 0x03 => (.ok, s.freq.setWidth 32)
  | 0x04 => (.ok, s.seqIdx.setWidth 32)
  | n =>
    if 0x08 ≤ n ∧ n ≤ 0x0F then
      match s.cal with
      | none => (.calibrationError, 0)
      | some c => (.ok, (c.get (n - 8)).setWidth 32)
    else (.invalidArgument, 0)

/-- RDREG (41_pwm_driver.md R157). -/
def execRdreg (r : Byte) (s : State) : Host.Outcome State Fault Refusal :=
  .next (respond (readRegister r s).1 (readRegister r s).2 s)

/-- An illegal word is performed as: no state change, no bus transaction, (InvalidArgument, 0) (30_encoding.md R83). -/
def performIllegal (s : State) : State := respond .invalidArgument 0 s

end Sys2Proof.Machine
end

