-- ==== Sys2Proof/Machine/Dispatch.lean ====
section
/-! DEFINITION. The dispatch: one arm per operation of 30_encoding.md R84, each one call of its meaning. -/

namespace Sys2Proof.Machine

/-- The operation an instruction names, performed to its end (60_exceptions.md R227). -/
def exec (i : Instr) (s : State) : Host.Outcome State Fault Refusal :=
  match i with
  -- system
  | .nop => Sys2Proof.Machine.execNop s
  | .rdreg r => Sys2Proof.Machine.execRdreg r s
  -- calibration and conversion
  | .ptCalrd => Sys2Proof.Machine.execPtCalrd s
  | .ptCalvfy => Sys2Proof.Machine.execPtCalvfy s
  | .ptInit => Sys2Proof.Machine.execPtInit s
  | .ptTemp => Sys2Proof.Machine.execPtTemp s
  | .rhRead => Sys2Proof.Machine.execRhRead s
  | .slInit => Sys2Proof.Machine.execSlInit s
  | .slTemp => Sys2Proof.Machine.execSlTemp s
  -- PWM driver
  | .pwmInit => Sys2Proof.Machine.execPwmInit s
  | .pwmSetch a d => Sys2Proof.Machine.execPwmSetch a d s
  | .pwmSetgrp a d => Sys2Proof.Machine.execPwmSetgrp a d s
  | .pwmPct2duty p => Sys2Proof.Machine.execPwmPct2duty p s
  -- lamp command and mixer
  | .lampLoad b m => Sys2Proof.Machine.execLampLoad b m s
  | .lampSetb b => Sys2Proof.Machine.execLampSetb b s
  | .lampSetct m => Sys2Proof.Machine.execLampSetct m s
  | .mixApply b m => Sys2Proof.Machine.execMixApply b m s
  | .mixRecall => Sys2Proof.Machine.execMixRecall s
  -- animation
  | .animBoot => Sys2Proof.Machine.execAnimBoot s
  | .animBrinit f => Sys2Proof.Machine.execAnimBrinit f s
  | .animBren => Sys2Proof.Machine.execAnimBren s
  | .animStop => Sys2Proof.Machine.execAnimStop s
  | .animBlink => Sys2Proof.Machine.execAnimBlink s
  | .animTick => Sys2Proof.Machine.execAnimTick s
  | .animStep => Sys2Proof.Machine.execAnimStep s

end Sys2Proof.Machine
end

