-- ==== Sys2Proof/WellFormed.lean ====
section
/-! DEFINITION. What the model checks before it runs: the configuration (00_scope.md R10), and which words a source
can send (60_exceptions.md R226). An `Instr` needs no check of its own: its operand types are exactly the fields of
its format, and range checks beyond the field width belong to the operation (30_encoding.md R82). -/

namespace Sys2Proof

/-- ceil(100 / RAMP_STEP_PCT) of 00_scope.md R10. -/
def Params.rampUp (p : Params) : Nat := (100 + p.rampStepPct - 1) / p.rampStepPct

/-- The boot sequence's frame count (R10; 43_animation.md R190). -/
def Params.bootFrameCount (p : Params) : Nat :=
  2 * p.rampUp + 1 +
    match p.bootVariant with
    | .ramp => 0
    | .trailSpin => p.spinRotations * Config.nCh

/-- The blink sequence's frame count (R10; 43_animation.md R191). -/
def Params.blinkFrameCount (p : Params) : Nat := 2 * p.blinkCount + 1

/-- "GROUP_SIZE is 3 or 4; AMBER_CH and WHITE_CH each have GROUP_SIZE members" (R10). -/
def Params.groupSizesOk (p : Params) : Bool :=
  decide ((p.groupSize = 3 ∨ p.groupSize = 4) ∧ p.amberCh.length = p.groupSize ∧ p.whiteCh.length = p.groupSize)

/-- "every member is in 0..N_CH-1" (R10). -/
def Params.channelsInRange (p : Params) : Bool := (p.amberCh ++ p.whiteCh).all (· < Config.nCh)

/-- "no index occurs twice in AMBER_CH ++ WHITE_CH" (R10). -/
def Params.channelsDistinct (p : Params) : Bool := decide (p.amberCh ++ p.whiteCh).Nodup

/-- "K_MIN < K_MAX" (R10). -/
def Params.kelvinRangeOk (p : Params) : Bool := decide (p.kMin < p.kMax)

/-- "DEFAULT_MIREDS is not 0" (R10). -/
def Params.defaultMiredsOk (p : Params) : Bool := p.defaultMireds != 0

/-- "RAMP_STEP_PCT is in 1..100" (R10). -/
def Params.rampStepOk (p : Params) : Bool := decide (1 ≤ p.rampStepPct ∧ p.rampStepPct ≤ 100)

/-- "SPIN_HEAD_PCT, SPIN_TRAIL_STEP_PCT and BLINK_ON_PCT are in 0..100" (R10). -/
def Params.percentsOk (p : Params) : Bool :=
  decide (p.spinHeadPct ≤ 100 ∧ p.spinTrailStepPct ≤ 100 ∧ p.blinkOnPct ≤ 100)

/-- "the boot sequence and the blink sequence each have fewer than 65536 frames" (R10). -/
def Params.frameCountsOk (p : Params) : Bool :=
  decide (p.bootFrameCount < 65536 ∧ p.blinkFrameCount < 65536)

/-- PROM_READ_COUNT is "7 or 8" (R9). -/
def Params.promCountOk (p : Params) : Bool := decide (p.promReadCount = 7 ∨ p.promReadCount = 8)

/-- "PROM_CMD_BASE + 7 * PROM_CMD_STRIDE <= 255" (R10). -/
def Params.promCodesOk (p : Params) : Bool := decide (p.promCmdBase.toNat + 7 * p.promCmdStride.toNat ≤ 255)

/-- "the four device addresses PT_ADDR, RH_ADDR, SL_ADDR, PWM_ADDR are pairwise different" (R10). -/
def Params.addressesDistinct (p : Params) : Bool := decide [p.ptAddr, p.rhAddr, p.slAddr, p.pwmAddr].Nodup

/-- "REG_PWM_BASE + N_CH - 1 <= 255" (R10). -/
def Params.dutyRangeOk (p : Params) : Bool := decide (p.regPwmBase.toNat + Config.nCh - 1 ≤ 255)

/-- The four mode registers and the range REG_PWM_BASE..REG_PWM_BASE+7 "do not overlap" (R10). -/
def Params.registersDistinct (p : Params) : Bool :=
  decide ([p.regMode1.toNat, p.regMode2.toNat, p.regLedout0.toNat, p.regLedout1.toNat] ++
    Config.allCh.map (p.regPwmBase.toNat + ·)).Nodup

/-- The checks of R10, and R9's on PROM_READ_COUNT. -/
def Params.checks (p : Params) : List Bool :=
  [p.groupSizesOk, p.channelsInRange, p.channelsDistinct, p.kelvinRangeOk, p.defaultMiredsOk, p.rampStepOk,
   p.percentsOk, p.frameCountsOk, p.promCountOk, p.promCodesOk, p.addressesDistinct, p.dutyRangeOk,
   p.registersDistinct]

/-- Well-formedness of the configuration, "which the model checks before it runs" (R10). -/
def Params.wf (p : Params) : Bool := p.checks.all id

/-- The words a source sends: the host any, the tick source ANIM.TICK only, the sequencer ANIM.STEP only
(60_exceptions.md R226). A property of the sources: the block does not check it (R235). -/
def Source.maySend : Source → Word → Bool
  | .host, _ => true
  | .tick, w => w == 0x45000000#32
  | .sequencer, w => w == 0x46000000#32

/-- An input the three sources and the reset line can produce. -/
def Input.wf : Input → Bool
  | .event src w => src.maySend w
  | .reset => true

end Sys2Proof
end

