-- ==== Sys2Proof/Machine/Step.lean ====
section
/-! DEFINITION. One step of the machine: the block takes the next item of its merged input (60_exceptions.md R227,
R228). -/

namespace Sys2Proof.Machine

/-- One step. A configuration that breaks 00_scope.md R10 is refused (log 2). With no input waiting the block waits
(log 3). A reset is applied between operations (70_reset_and_hazards.md R250). A word is taken once (20_memory.md
R67), decoded, and performed to its end; an illegal one as 30_encoding.md R83 says. -/
def step (s : State) : Host.Outcome State Fault Refusal :=
  if s.cfg.wf then
    match s.input with
    | [] => .next s
    | .reset :: rest => .next (applyReset rest s)
    | .event src w :: rest =>
      match decode w with
      | .ok i => exec i (accept src rest s)
      | .error _ => .next (performIllegal (accept src rest s))
  else .refused .illFormedConfig

/-- The word of an opcode-table row, sent by the host as the next item of the input. -/
def State.withFetchWord (s : State) (nbits w : Nat) : State :=
  { s with input := .event .host (BitVec.ofNat 32 (w % 2 ^ nbits)) :: s.input }

end Sys2Proof.Machine
end

