-- ==== Sys2Proof/Safety.lean ====
section
/-! DEFINITION. What the claims speak of: the invariants of 10_state.md, the frame of an operation that uses the bus,
scripted oracles, the table of statuses and the owner of the PWM output. -/

namespace Sys2Proof.Machine

/-! ## Invariants -/

/-- SEQ_IDX is below the frame count of the running sequence, and 0 in Idle and Breathing (10_state.md R28). -/
def seqInRange (s : State) : Bool :=
  match runningFrames s with
  | some frames => decide (s.seqIdx.toNat < frames.length)
  | none => s.seqIdx == 0

/-- The invariants of 10_state.md (R22, R23, R28), the checked configuration (00_scope.md R10) and the canonical form of
the register file. -/
abbrev Inv (s : State) : Prop :=
  s.cfg.wf = true ∧ (s.calValid = true → s.calLoaded = true) ∧ s.lampMireds ≠ 0 ∧ seqInRange s = true ∧
    Memory.wf s.pwmdev = true

/-! ## What transactions leave in the PWM controller (20_memory.md R58) -/

/-- The byte a transaction stores into register `r` of the PWM controller, if it stores one: a successful one-byte
write to PWM_ADDR. -/
def storedByte (p : Params) (r : Nat) (t : Transaction) : Option Byte :=
  match t.bytes with
  | [v] =>
    if t.kind = .W ∧ t.addr = p.pwmAddr ∧ t.reg.map BitVec.toNat = some r ∧ t.ok = true then some v else none
  | _ => none

/-- The byte the last of these transactions that stored into register `r` left there. -/
def lastStored (p : Params) (r : Nat) (l : List Transaction) : Option Byte :=
  l.foldl (fun last t => (storedByte p r t).or last) none

/-- The responses after an operation has ended with `(st, v)` (30_encoding.md R85). -/
def answeredWith (s : State) (st : Status) (v : Word) : List Delivery :=
  s.responses ++ [⟨s.requester, ⟨st, v⟩⟩]

/-! ## Scripted oracles -/

/-- A scripted answer that is not a failure. -/
def answerOk : BusAnswer → Bool
  | .fail => false
  | .ok _ => true

/-- The history entries of one-byte writes to the PWM controller that end so, in order (20_memory.md R57). -/
def pwmEntries (p : Params) (writes : List (Byte × Byte)) (oks : List Bool) : List Transaction :=
  (writes.zip oks).map fun x => ⟨.W, p.pwmAddr, some x.1.1, [x.1.2], x.2⟩

/-- The register writes of (channel, duty) pairs: register REG_PWM_BASE + ch (41_pwm_driver.md R140). -/
def dutyWrites (p : Params) (duties : List (Nat × Byte)) : List (Byte × Byte) :=
  duties.map fun x => (p.regPwmBase + BitVec.ofNat 8 x.1, x.2)

/-- The oracle script of a successful PROM read of these words, most significant byte first. -/
def promScript (ws : List Half) : List BusAnswer :=
  ws.flatMap fun (w : Half) => [.ok [], .ok [w.extractLsb' 8 8, w.extractLsb' 0 8]]

/-- The transactions of a successful PROM read of these words from word `i` on (40_calibration_conversion.md R103). -/
def promEntries (p : Params) : Nat → List Half → List Transaction
  | _, [] => []
  | i, w :: ws =>
    ⟨.W, p.ptAddr, some (p.promCmdBase + p.promCmdStride * BitVec.ofNat 8 i), [], true⟩ ::
    ⟨.R, p.ptAddr, none, [w.extractLsb' 8 8, w.extractLsb' 0 8], true⟩ :: promEntries p (i + 1) ws

/-- The (register, value) pairs PWM.INIT writes, in the order of 41_pwm_driver.md R142. -/
def bringUp (p : Params) : List (Byte × Byte) :=
  [(p.regMode1, p.mode1Value), (p.regMode2, p.mode2Value), (p.regLedout0, p.ledoutValue),
   (p.regLedout1, p.ledoutValue), (p.regPwmBase, 0), (p.regPwmBase + 1, 0), (p.regPwmBase + 2, 0),
   (p.regPwmBase + 3, 0), (p.regPwmBase + 4, 0), (p.regPwmBase + 5, 0), (p.regPwmBase + 6, 0),
   (p.regPwmBase + 7, 0)]

/-- The (channel, duty) pairs `apply` writes: the amber group, then the white group (42_mixing.md R162). -/
def mixDuties (p : Params) (b m : Nat) : List (Nat × Byte) :=
  (p.amberCh.map fun ch => (ch, BitVec.ofNat 8 (mixAmber p b m))) ++
    p.whiteCh.map fun ch => (ch, BitVec.ofNat 8 (mixWhite p b m))

/-- The status of a best-effort run: BusError exactly when some write failed (41_pwm_driver.md R141). -/
def bestEffortStatus (oks : List Bool) : Status := if oks.all id then .ok else .busError

/-- `t` is `u` after the best-effort channel writes `ds`, whose answers were `oks`, and the response `(st, v)`: H has one
entry a write, in order; each channel whose write succeeded holds its duty and each other one what it held; every other
register of the PWM controller and everything else is as in `u` (41_pwm_driver.md R140, R141). That a failed write leaves
the register alone is the spec's decision D20 (20_memory.md R58; log 8). -/
def WroteChannels (u : State) (ds : List (Nat × Byte)) (oks : List Bool) (rest : List BusAnswer) (st : Status)
    (v : Word) (t : State) : Prop :=
  t = { u with
        pwmdev := t.pwmdev
        history := u.history ++ pwmEntries u.cfg (dutyWrites u.cfg ds) oks
        oracle := rest
        draws := u.draws + ds.length
        responses := answeredWith u st v } ∧
  (∀ (k ch : Nat) (d : Byte), ds[k]? = some (ch, d) → t.duty ch = if oks[k]? = some true then some d else u.duty ch) ∧
  ∀ r, (∀ x ∈ ds, r ≠ (dutyReg u.cfg x.1).toNat) → Memory.read t.pwmdev r = Memory.read u.pwmdev r

/-! ## The words of the opcode table -/

/-- The match and mask columns of 30_encoding.md R84, row by row. -/
def legalRows : List (Word × Word) :=
  [(0x00000000, 0xFFFFFFFF), (0x01000000, 0xFFFFFF00), (0x10000000, 0xFFFFFFFF), (0x11000000, 0xFFFFFFFF),
   (0x12000000, 0xFFFFFFFF), (0x13000000, 0xFFFFFFFF), (0x14000000, 0xFFFFFFFF), (0x15000000, 0xFFFFFFFF),
   (0x16000000, 0xFFFFFFFF), (0x20000000, 0xFFFFFFFF), (0x21000000, 0xFFFF0000), (0x22000000, 0xFFFF0000),
   (0x23000000, 0xFFFFFF00)] ++
  [(0x30000000, 0xFF000000), (0x31000000, 0xFFFFFF00), (0x32000000, 0xFFFF0000), (0x33000000, 0xFF000000),
   (0x34000000, 0xFFFFFFFF), (0x40000000, 0xFFFFFFFF), (0x41000000, 0xFF000000), (0x42000000, 0xFFFFFFFF),
   (0x43000000, 0xFFFFFFFF), (0x44000000, 0xFFFFFFFF), (0x45000000, 0xFFFFFFFF), (0x46000000, 0xFFFFFFFF)]

/-! ## The operations by what they do -/

/-- The operations that issue no bus transaction in any state (60_exceptions.md R221). -/
inductive NoBusOp : Instr → Prop where
  | nop : NoBusOp .nop
  | rdreg (r : Byte) : NoBusOp (.rdreg r)
  | ptCalvfy : NoBusOp .ptCalvfy
  | pwmPct2duty (p : Byte) : NoBusOp (.pwmPct2duty p)
  | lampLoad (b : Byte) (m : Half) : NoBusOp (.lampLoad b m)
  | animBoot : NoBusOp .animBoot
  | animBrinit (f : Turn) : NoBusOp (.animBrinit f)
  | animBren : NoBusOp .animBren
  | animStop : NoBusOp .animStop
  | animBlink : NoBusOp .animBlink

/-- The seven sensor operations of 40_calibration_conversion.md. -/
inductive SensorOp : Instr → Prop where
  | ptCalrd : SensorOp .ptCalrd
  | ptCalvfy : SensorOp .ptCalvfy
  | ptInit : SensorOp .ptInit
  | ptTemp : SensorOp .ptTemp
  | rhRead : SensorOp .rhRead
  | slInit : SensorOp .slInit
  | slTemp : SensorOp .slTemp

/-- The direct driver operations, which stand outside the ownership rule (41_pwm_driver.md R154). -/
inductive DirectOp : Instr → Prop where
  | pwmInit : DirectOp .pwmInit
  | pwmSetch (a d : Byte) : DirectOp (.pwmSetch a d)
  | pwmSetgrp (a d : Byte) : DirectOp (.pwmSetgrp a d)

/-- The four operations that reach `apply`: the pair they apply, and the state they apply it in (42_mixing.md R164 to
R167). -/
inductive MixOp (s : State) : Instr → Byte → Half → State → Prop where
  | mixApply (b : Byte) (m : Half) : MixOp s (.mixApply b m) b m s
  | mixRecall : MixOp s .mixRecall s.lampBrightness s.lampMireds s
  | lampSetb (b : Byte) : MixOp s (.lampSetb b) b s.lampMireds { s with lampBrightness := b }
  | lampSetct (m : Half) : MixOp s (.lampSetct m) s.lampBrightness m { s with lampMireds := m }

/-- The owner of the PWM output in a state of the animation machine (60_exceptions.md R232). -/
inductive Owns : AnimState → Instr → Prop where
  | mixApply (b : Byte) (m : Half) : Owns .idle (.mixApply b m)
  | mixRecall : Owns .idle .mixRecall
  | lampSetb (b : Byte) : Owns .idle (.lampSetb b)
  | lampSetct (m : Half) : Owns .idle (.lampSetct m)
  | tick : Owns .breathing .animTick
  | bootStep : Owns .bootSequence .animStep
  | blinkStep : Owns .confirmationBlink .animStep

/-- The operands that end an operation with InvalidArgument (60_exceptions.md R221). -/
inductive BadOperand : Instr → Prop where
  | rdregGap (r : Byte) (h : 5 ≤ r.toNat) (h' : r.toNat ≤ 7) : BadOperand (.rdreg r)
  | rdregHigh (r : Byte) (h : 16 ≤ r.toNat) : BadOperand (.rdreg r)
  | channel (a d : Byte) (h : 7 < a.toNat) : BadOperand (.pwmSetch a d)
  | selector (a d : Byte) (h : 2 < a.toNat) : BadOperand (.pwmSetgrp a d)
  | percent (p : Byte) (h : 100 < p.toNat) : BadOperand (.pwmPct2duty p)
  | loadZero (b : Byte) : BadOperand (.lampLoad b 0)
  | setctZero : BadOperand (.lampSetct 0)
  | applyZero (b : Byte) : BadOperand (.mixApply b 0)

/-- The coefficients an operation needs are missing or unverified (60_exceptions.md R221, without PT.INIT's checksum). -/
inductive Uncalibrated (s : State) : Instr → Prop where
  | rdreg (r : Byte) (h : 8 ≤ r.toNat) (h' : r.toNat ≤ 15) (hl : s.calLoaded = false) : Uncalibrated s (.rdreg r)
  | ptCalvfy (hl : s.calLoaded = false) : Uncalibrated s .ptCalvfy
  | ptTemp (hv : s.calValid = false) : Uncalibrated s .ptTemp

/-! ## Repetition -/

/-- The same operation performed `n` times in a row, stopping at a fault or a refusal. -/
def repeatOp (i : Instr) : Nat → State → Host.Outcome State Fault Refusal
  | 0, s => .next s
  | n + 1, s =>
    match exec i s with
    | .next t => repeatOp i n t
    | .fault r => .fault r
    | .refused r => .refused r

/-! ## The checksum's single-bit errors (40_calibration_conversion.md R107) -/

/-- A coefficient set with bit `b` of word `w` flipped. -/
def flipBit (c : Coeffs) (w b : Nat) : Coeffs :=
  Coeffs.ofWords (c.words.set w (c.get w ^^^ BitVec.ofNat 16 (2 ^ b)))

end Sys2Proof.Machine
end

