-- ==== Sys2Proof/Certificates/Slice0/Obligations.lean ====
section
/-! DEFINITION. The statements about the SCC block, in the order of the spec's files: encoding, the step, reset and the
invariants, the sensor operations, the driver, the mixer, the animation, and the rules of the whole machine. -/

open Sys2Proof Sys2Proof.Machine

/-! ## Encoding (30_encoding.md) -/

/-- R81, R82, R84, R86: a word decodes to an operation exactly when it is that operation's event word, so no operand bit
is dropped and no two words share a meaning. -/
def Obligations.DecodeInvertsEncode : Prop :=
  ∀ (w : Word) (i : Instr), decode w = .ok i ↔ encode i = w

/-- R83: a word is legal exactly when it matches a row of the opcode table; the reserved opcodes are illegal; an illegal
word changes no state, issues no transaction and is answered (InvalidArgument, 0). -/
def Obligations.LegalWordsAreTableRows : Prop :=
  (∀ w : Word, (∃ i, decode w = .ok i) ↔ ∃ row ∈ legalRows, w &&& row.2 = row.1) ∧
  (∀ w : Word,
    (0x02 ≤ w.toNat / 2 ^ 24 ∧ w.toNat / 2 ^ 24 ≤ 0x0F) ∨ (0x17 ≤ w.toNat / 2 ^ 24 ∧ w.toNat / 2 ^ 24 ≤ 0x1F) ∨
    (0x24 ≤ w.toNat / 2 ^ 24 ∧ w.toNat / 2 ^ 24 ≤ 0x2F) ∨ (0x35 ≤ w.toNat / 2 ^ 24 ∧ w.toNat / 2 ^ 24 ≤ 0x3F) ∨
    0x47 ≤ w.toNat / 2 ^ 24 → ∀ i, decode w ≠ .ok i) ∧
  ∀ (s : State) (src : Source) (w : Word) (rest : List Input),
    s.cfg.wf = true → s.input = .event src w :: rest → (∀ i, decode w ≠ .ok i) →
      step s = .next { s with
        input := rest
        requester := src
        responses := s.responses ++ [⟨src, ⟨.invalidArgument, 0⟩⟩] }

/-- 95_test_vectors.md V30-1, V30-2 and, for PT.INIT's word, 30_encoding.md R84: words the spec writes out decode to the
operations and operands it names. -/
def Obligations.SpecWordsDecode : Prop :=
  decode 0x00000000#32 = .ok .nop ∧
  decode 0x0100000D#32 = .ok (.rdreg 13) ∧
  decode 0x12000000#32 = .ok .ptInit ∧
  decode 0x210003FF#32 = .ok (.pwmSetch 3 255) ∧
  decode 0x22000180#32 = .ok (.pwmSetgrp 1 128) ∧
  decode 0x30C8012C#32 = .ok (.lampLoad 200 300) ∧
  decode 0x320001C6#32 = .ok (.lampSetct 454) ∧
  decode 0x41028F5C#32 = .ok (.animBrinit 167772) ∧
  decode 0x45000001#32 = .error (.mustBeZero 0x45) ∧
  decode 0x47000000#32 = .error (.reservedOpcode 0x47)

/-- R88: the three pseudo-operations expand exactly so, and there are no others. -/
def Obligations.PseudoOperationsExpand : Prop :=
  (∀ f, expandPseudo (.animBreath f) = [.animBrinit f, .animBren]) ∧
  expandPseudo .pwmOff = [.pwmSetgrp 2 0] ∧
  (∀ b m, expandPseudo (.lampSet b m) = [.lampLoad b m, .mixRecall]) ∧
  ∀ q : Pseudo, (∃ f, q = .animBreath f) ∨ q = .pwmOff ∨ ∃ b m, q = .lampSet b m

/-! ## The step, reset and the configuration -/

/-- A step takes the next word of the input and performs the operation it decodes to, for the source that sent it
(R227, R67); a word stored by `withFetchWord` is performed next, for the host (the input list and `withFetchWord` are
the model's, log 3). -/
def Obligations.StepPerformsDecodedOperation : Prop :=
  (∀ (s : State) (src : Source) (w : Word) (rest : List Input) (i : Instr),
    s.cfg.wf = true → s.input = .event src w :: rest → decode w = .ok i →
      step s = exec i { s with input := rest, requester := src }) ∧
  ∀ (s : State) (i : Instr), s.cfg.wf = true →
    step (s.withFetchWord 32 (encode i).toNat) = exec i { s with requester := .host }

/-- R250: a reset taken from the input puts the block into its reset state under the same configuration, returns no
response and draws nothing from the oracle. That it arrives as an item of the same input is the model's choice
(log 4). -/
def Obligations.StepAppliesReset : Prop :=
  ∀ (s : State) (rest : List Input), s.cfg.wf = true → s.input = .reset :: rest →
    step s = .next { State.resetWith s.cfg with
      input := rest
      requester := s.requester
      responses := s.responses
      oracle := s.oracle
      draws := s.draws }

/-- With nothing to take the block waits (the model's choice, log 3); a configuration that breaks R10 is refused
(R10, "which the model checks before it runs"; log 2). -/
def Obligations.StepWaitsOrRefuses : Prop :=
  (∀ s : State, s.cfg.wf = true → s.input = [] → step s = .next s) ∧
  ∀ s : State, s.cfg.wf = false → step s = .refused .illFormedConfig

/-- R35: every element of the state after reset, for every configuration. -/
def Obligations.ResetValues : Prop :=
  ∀ p : Params,
    (State.resetWith p).cal = none ∧
    (State.resetWith p).calLoaded = false ∧
    (State.resetWith p).calValid = false ∧
    (State.resetWith p).lampBrightness = p.defaultBrightness ∧
    (State.resetWith p).lampMireds = p.defaultMireds ∧
    (State.resetWith p).animState = .idle ∧
    (State.resetWith p).phase = 0 ∧
    (State.resetWith p).freq = 0 ∧
    (State.resetWith p).seqIdx = 0 ∧
    (State.resetWith p).pwmEn = false ∧
    (∀ r, Memory.read (State.resetWith p).pwmdev r = none) ∧
    (State.resetWith p).history = []

/-- R10: the configuration check is exactly the list of conditions of the rule (and R9's on PROM_READ_COUNT), and no
operation writes the configuration. -/
def Obligations.ConfigurationCheck : Prop :=
  (∀ p : Params, p.wf = true ↔
    (p.groupSize = 3 ∨ p.groupSize = 4) ∧ p.amberCh.length = p.groupSize ∧ p.whiteCh.length = p.groupSize ∧
    (∀ c ∈ p.amberCh ++ p.whiteCh, c ≤ 7) ∧ (p.amberCh ++ p.whiteCh).Nodup ∧ p.kMin < p.kMax ∧
    p.defaultMireds ≠ 0 ∧ (1 ≤ p.rampStepPct ∧ p.rampStepPct ≤ 100) ∧
    (p.spinHeadPct ≤ 100 ∧ p.spinTrailStepPct ≤ 100 ∧ p.blinkOnPct ≤ 100) ∧
    2 * ((100 + p.rampStepPct - 1) / p.rampStepPct) + 1 +
      (if p.bootVariant = .trailSpin then p.spinRotations * 8 else 0) < 65536 ∧
    2 * p.blinkCount + 1 < 65536 ∧ (p.promReadCount = 7 ∨ p.promReadCount = 8) ∧
    p.promCmdBase.toNat + 7 * p.promCmdStride.toNat ≤ 255 ∧
    [p.ptAddr, p.rhAddr, p.slAddr, p.pwmAddr].Nodup ∧ p.regPwmBase.toNat + 7 ≤ 255 ∧
    [p.regMode1, p.regMode2, p.regLedout0, p.regLedout1].Nodup ∧
    ∀ r ∈ [p.regMode1, p.regMode2, p.regLedout0, p.regLedout1],
      r.toNat < p.regPwmBase.toNat ∨ p.regPwmBase.toNat + 7 < r.toNat) ∧
  ∀ (i : Instr) (s t : State), exec i s = .next t → t.cfg = s.cfg

/-! ## Invariants and whole-machine rules of one step -/

/-- The invariants hold after reset, under every well-formed configuration and under the reference one (the model's
choice for `State.reset`, log 1). -/
def Obligations.InvariantHoldsAtReset : Prop :=
  (∀ p : Params, p.wf = true → Inv (State.resetWith p)) ∧ Inv State.reset ∧
  State.reset = State.resetWith Config.refcfg

/-- Every step keeps the invariants of R10, R22, R23 and R28 and the canonical form of the register file. -/
def Obligations.StepKeepsInvariant : Prop :=
  ∀ s t : State, Inv s → step s = .next t → Inv t

/-- R225 (derived in the spec from R221 and R56): every event word, legal or not, whatever its source and whatever the
bus does, is answered by exactly one response, never StoreError, after at most 2 * PROM_READ_COUNT transactions, at most
16; and the block is ready for the next word. -/
def Obligations.EveryWordIsAnswered : Prop :=
  ∀ (s : State) (src : Source) (w : Word) (rest : List Input), Inv s → s.input = .event src w :: rest →
    ∃ t st v l, step s = .next t ∧ t.responses = s.responses ++ [⟨src, ⟨st, v⟩⟩] ∧ st ≠ .storeError ∧
      t.history = s.history ++ l ∧ l.length ≤ 2 * s.cfg.promReadCount ∧ 2 * s.cfg.promReadCount ≤ 16 ∧
      t.input = rest ∧ Inv t

/-- R85: an operation ends with exactly one response, to the source being served, and touches neither the input nor the
configuration; H only grows, and every transaction is one draw of the oracle (the draw counter is the model's, log 5).
-/
def Obligations.OneResponsePerOperation : Prop :=
  ∀ (i : Instr) (s t : State), exec i s = .next t →
    (∃ st v, t.responses = s.responses ++ [⟨s.requester, ⟨st, v⟩⟩]) ∧
    t.input = s.input ∧ t.requester = s.requester ∧ t.cfg = s.cfg ∧
    ∃ l, t.history = s.history ++ l ∧ t.draws = s.draws + l.length

/-- R58: a successful one-byte write to PWM_ADDR sets that register; a failed one and every other transaction change
nothing; the block issues no write of another length to PWM_ADDR. That a failed write leaves the register alone is the
spec's decision D20 (log 8). -/
def Obligations.DeviceHoldsLastByteStored : Prop :=
  ∀ (i : Instr) (s t : State), s.cfg.wf = true → exec i s = .next t →
    ∃ l, t.history = s.history ++ l ∧
      (∀ r, Memory.read t.pwmdev r = (lastStored s.cfg r l).or (Memory.read s.pwmdev r)) ∧
      ∀ x ∈ l, x.kind = .W → x.addr = s.cfg.pwmAddr → x.bytes.length = 1

/-- R32, R36, R58 over whole runs: each register of the PWM controller holds the last byte a successful write in H
stored there, and no value if none did. Holds after reset and is kept by every step, a reset included. That a failed
write leaves its register as it was is the spec's decision D20 (log 8). -/
def Obligations.HistoryDeterminesDevice : Prop :=
  (∀ p r, Memory.read (State.resetWith p).pwmdev r = lastStored p r (State.resetWith p).history) ∧
  ∀ s t : State, (∀ r, Memory.read s.pwmdev r = lastStored s.cfg r s.history) → step s = .next t →
    ∀ r, Memory.read t.pwmdev r = lastStored t.cfg r t.history

/-- R232: an operation that is neither a direct driver operation nor the owner of the PWM output in the present
animation state issues no transaction to the PWM controller and leaves its registers alone. -/
def Obligations.OnlyOwnerDrivesPwm : Prop :=
  ∀ (i : Instr) (s t : State), s.cfg.wf = true → exec i s = .next t → ¬DirectOp i → ¬Owns s.animState i →
    t.pwmdev = s.pwmdev ∧ ∃ l, t.history = s.history ++ l ∧ ∀ x ∈ l, x.addr ≠ s.cfg.pwmAddr

/-- R31, R234: each element of the block's state is written only by the operations its row names; PWM_EN is never
cleared by an operation (R29). -/
def Obligations.OnlyNamedOperationsWriteState : Prop :=
  ∀ (i : Instr) (s t : State), exec i s = .next t →
    (t.cal ≠ s.cal → i = .ptCalrd ∨ i = .ptInit) ∧
    (t.calValid ≠ s.calValid → i = .ptCalrd ∨ i = .ptCalvfy ∨ i = .ptInit) ∧
    (t.lampBrightness ≠ s.lampBrightness → (∃ b m, i = .lampLoad b m) ∨ ∃ b, i = .lampSetb b) ∧
    (t.lampMireds ≠ s.lampMireds → (∃ b m, i = .lampLoad b m) ∨ ∃ m, i = .lampSetct m) ∧
    (t.animState ≠ s.animState →
      i = .animBoot ∨ i = .animBren ∨ i = .animStop ∨ i = .animBlink ∨ i = .animStep) ∧
    (t.seqIdx ≠ s.seqIdx →
      i = .animBoot ∨ i = .animBren ∨ i = .animStop ∨ i = .animBlink ∨ i = .animStep) ∧
    (t.phase ≠ s.phase → (∃ f, i = .animBrinit f) ∨ i = .animTick) ∧
    (t.freq ≠ s.freq → ∃ f, i = .animBrinit f) ∧
    t.pwmEn = (s.pwmEn || decide (i = .pwmInit))

/-- R57: H is read by no rule of the block: with any other history before it an operation does the same and records the
same transactions. -/
def Obligations.HistoryIsNeverRead : Prop :=
  ∀ (i : Instr) (s t : State) (l h : List Transaction), exec i s = .next t → t.history = s.history ++ l →
    exec i { s with history := h } = .next { t with history := h ++ l }

/-- R235: whichever source sent a word, the same operation has the same effect and the same response; only the addressee
differs. -/
def Obligations.SourceDoesNotMatter : Prop :=
  ∀ (i : Instr) (s t : State) (r : Response) (src : Source), exec i s = .next t →
    t.responses = s.responses ++ [⟨s.requester, r⟩] →
      exec i { s with requester := src } =
        .next { t with requester := src, responses := s.responses ++ [⟨src, r⟩] }

/-- R221 (derived in the spec from the operation rules): which operation ends with which status, and the exact cause; an
illegal word always ends with InvalidArgument; the operations without bus access issue nothing. -/
def Obligations.StatusTable : Prop :=
  (∀ (i : Instr) (s t : State) (st : Status) (v : Word) (l : List Transaction), Inv s → exec i s = .next t →
    t.responses = answeredWith s st v → t.history = s.history ++ l →
      (st = .invalidArgument ↔ BadOperand i) ∧
      (st = .busError ↔ ∃ x ∈ l, x.ok = false) ∧
      (st = .calibrationError ↔
        Uncalibrated s i ∨
          (i = .ptInit ∧ (∀ x ∈ l, x.ok = true) ∧ ∃ c, t.cal = some c ∧ checksumOk c = false)) ∧
      st ≠ .storeError ∧
      (NoBusOp i → l = [])) ∧
  ∀ (s : State) (src : Source) (w : Word) (rest : List Input), s.cfg.wf = true →
    s.input = .event src w :: rest → (∀ i, decode w ≠ .ok i) →
      ∃ t, step s = .next t ∧ t.responses = s.responses ++ [⟨src, ⟨.invalidArgument, 0⟩⟩]

/-- R223 (a), R230: an InvalidArgument, and a CalibrationError of any operation but PT.INIT, leave everything as it was
and come before any bus access; a BusError of PT.CALRD, PT.INIT, PT.TEMP, RH.READ and SL.TEMP leaves everything but H as
it was. -/
def Obligations.RefusalsChangeNothing : Prop :=
  ∀ (i : Instr) (s t : State) (st : Status) (v : Word), Inv s → exec i s = .next t →
    t.responses = answeredWith s st v →
      (st = .invalidArgument ∨ (st = .calibrationError ∧ i ≠ .ptInit) →
        v = 0 ∧ t = { s with responses := answeredWith s st 0 }) ∧
      (st = .busError → i = .ptCalrd ∨ i = .ptInit ∨ i = .ptTemp ∨ i = .rhRead ∨ i = .slTemp →
        v = 0 ∧ t = { s with
          history := t.history
          oracle := t.oracle
          draws := t.draws
          responses := answeredWith s st 0 })

/-- R226: what reaches the host of a delivered response: its own in full; of the tick source's and the sequencer's only
a status other than OK. That the dropped value shows as 0 is the model's choice (log 26). -/
def Obligations.HostSeesItsResponses : Prop :=
  (∀ r, hostView ⟨.host, r⟩ = some ⟨.host, r⟩) ∧
  ∀ src v st, src ≠ .host →
    hostView ⟨src, ⟨st, v⟩⟩ = if st = .ok then none else some ⟨src, ⟨st, 0⟩⟩

/-! ## System operations (41_pwm_driver.md section 6) -/

/-- R156: NOP is the all-zero word; it changes no state, issues no transaction and ends (OK, 0). -/
def Obligations.NopOnlyAnswers : Prop :=
  encode .nop = 0x00000000#32 ∧ ∀ s : State, exec .nop s = .next { s with responses := answeredWith s .ok 0 }

/-- R157: RDREG of every register number: the five registers, the eight coefficient slots, and the numbers that name no
register. -/
def Obligations.RdregReadsTheMap : Prop :=
  (∀ r : Byte, encode (.rdreg r) = BitVec.ofNat 32 (0x01000000 + r.toNat)) ∧
  (∀ s : State, exec (.rdreg 0x00) s = .next { s with
    responses := answeredWith s .ok (BitVec.ofNat 32 (s.calLoaded.toNat + 2 * s.calValid.toNat +
      4 * (match s.animState with
        | .idle => 0
        | .breathing => 1
        | .bootSequence => 2
        | .confirmationBlink => 3) + 16 * s.pwmEn.toNat)) }) ∧
  (∀ s : State, exec (.rdreg 0x01) s = .next { s with
    responses := answeredWith s .ok (BitVec.ofNat 32 (65536 * s.lampBrightness.toNat + s.lampMireds.toNat)) }) ∧
  (∀ s : State, exec (.rdreg 0x02) s = .next { s with
    responses := answeredWith s .ok (BitVec.ofNat 32 s.phase.toNat) }) ∧
  (∀ s : State, exec (.rdreg 0x03) s = .next { s with
    responses := answeredWith s .ok (BitVec.ofNat 32 s.freq.toNat) }) ∧
  (∀ s : State, exec (.rdreg 0x04) s = .next { s with
    responses := answeredWith s .ok (BitVec.ofNat 32 s.seqIdx.toNat) }) ∧
  (∀ (s : State) (r : Byte), 0x08 ≤ r.toNat → r.toNat ≤ 0x0F → s.cal = none →
    exec (.rdreg r) s = .next { s with responses := answeredWith s .calibrationError 0 }) ∧
  (∀ (s : State) (r : Byte) (c : Coeffs), 0x08 ≤ r.toNat → r.toNat ≤ 0x0F → s.cal = some c →
    ∃ w, c.words[r.toNat - 8]? = some w ∧
      exec (.rdreg r) s = .next { s with responses := answeredWith s .ok (BitVec.ofNat 32 w.toNat) }) ∧
  ∀ (s : State) (r : Byte), (0x05 ≤ r.toNat ∧ r.toNat ≤ 0x07) ∨ 0x10 ≤ r.toNat →
    exec (.rdreg r) s = .next { s with responses := answeredWith s .invalidArgument 0 }

/-! ## The sensor operations (40_calibration_conversion.md) -/

/-- R100: the first transaction of a sensor operation that fails is its last, the response is (BusError, 0) and no state
is written; without a failure the status is not BusError. -/
def Obligations.SensorOpStopsAtFirstFailure : Prop :=
  ∀ (i : Instr) (s t : State), SensorOp i → s.cfg.wf = true → exec i s = .next t →
    ∃ l, t.history = s.history ++ l ∧
      (((∀ x ∈ l, x.ok = true) ∧ ∀ v, t.responses ≠ answeredWith s .busError v) ∨
        ∃ before last, l = before ++ [last] ∧ (∀ x ∈ before, x.ok = true) ∧ last.ok = false ∧
          t = { s with
            history := s.history ++ l
            oracle := t.oracle
            draws := t.draws
            responses := answeredWith s .busError 0 })

/-- R101 (derived in the spec from R104 to R126): no sensor operation reads or writes the animation and lamp state,
PWM_EN or PWMDEV, and none addresses the PWM controller: with any other values there it does the same and keeps them. -/
def Obligations.SensorOpsIgnoreLampState : Prop :=
  ∀ (i : Instr) (s t : State), SensorOp i → s.cfg.wf = true → exec i s = .next t →
    (t.animState = s.animState ∧ t.phase = s.phase ∧ t.freq = s.freq ∧ t.seqIdx = s.seqIdx ∧
      t.lampBrightness = s.lampBrightness ∧ t.lampMireds = s.lampMireds ∧ t.pwmEn = s.pwmEn ∧
      t.pwmdev = s.pwmdev) ∧
    (∃ l, t.history = s.history ++ l ∧ ∀ x ∈ l, x.addr ≠ s.cfg.pwmAddr) ∧
    ∀ (a : AnimState) (ph fr : Turn) (ix m : Half) (b : Byte) (en : Bool) (dev : Memory),
      exec i { s with
        animState := a, phase := ph, freq := fr, seqIdx := ix, lampBrightness := b, lampMireds := m, pwmEn := en,
        pwmdev := dev } =
      .next { t with
        animState := a, phase := ph, freq := fr, seqIdx := ix, lampBrightness := b, lampMireds := m, pwmEn := en,
        pwmdev := dev }

/-- R104: a PT.CALRD whose transactions all succeed fills the eight slots in one step (the slot not read being 0), sets
CAL_LOADED and clears CAL_VALID, by a write and a receive for each word in ascending order; one whose transaction fails
stops there and keeps everything. That a word arrives most significant byte first is the spec's general knowledge (R60;
log 14). -/
def Obligations.PtCalrdReadsAllOrNothing : Prop :=
  encode .ptCalrd = 0x10000000#32 ∧
  (∀ (s : State) (ws : List Half) (rest : List BusAnswer), s.cfg.wf = true →
    ws.length = s.cfg.promReadCount → s.oracle = promScript ws ++ rest →
      ∃ c : Coeffs, c.words = ws ++ List.replicate (8 - s.cfg.promReadCount) 0 ∧
        exec .ptCalrd s = .next { s with
          cal := some c
          calValid := false
          history := s.history ++ promEntries s.cfg 0 ws
          oracle := rest
          draws := s.draws + 2 * s.cfg.promReadCount
          responses := answeredWith s .ok 0 }) ∧
  ∀ (s : State) (answers rest : List BusAnswer), s.cfg.wf = true → answers.all answerOk = true →
    answers.length < 2 * s.cfg.promReadCount → s.oracle = answers ++ .fail :: rest →
      ∃ l, l.length = answers.length + 1 ∧ (∀ x ∈ l, x.addr = s.cfg.ptAddr) ∧
        exec .ptCalrd s = .next { s with
          history := s.history ++ l
          oracle := rest
          draws := s.draws + l.length
          responses := answeredWith s .busError 0 }

/-- R110: PT.INIT reads as PT.CALRD does and then verifies: (OK, 1) with CAL_VALID = 1 on a match, (CalibrationError, 0)
with the coefficients loaded and CAL_VALID = 0 on a mismatch, (BusError, 0) with every element as it was on a failed
transaction. That a word arrives most significant byte first, and the checksum's constants, are the spec's general
knowledge (R60, R106; log 14). -/
def Obligations.PtInitReadsAndVerifies : Prop :=
  encode .ptInit = 0x12000000#32 ∧
  (∀ (s : State) (ws : List Half) (rest : List BusAnswer), s.cfg.wf = true →
    ws.length = s.cfg.promReadCount → s.oracle = promScript ws ++ rest →
      ∃ c : Coeffs, c.words = ws ++ List.replicate (8 - s.cfg.promReadCount) 0 ∧
        exec .ptInit s = .next { s with
          cal := some c
          calValid := checksumOk c
          history := s.history ++ promEntries s.cfg 0 ws
          oracle := rest
          draws := s.draws + 2 * s.cfg.promReadCount
          responses := if checksumOk c then answeredWith s .ok 1 else answeredWith s .calibrationError 0 }) ∧
  ∀ (s : State) (answers rest : List BusAnswer), s.cfg.wf = true → answers.all answerOk = true →
    answers.length < 2 * s.cfg.promReadCount → s.oracle = answers ++ .fail :: rest →
      ∃ l, l.length = answers.length + 1 ∧ (∀ x ∈ l, x.addr = s.cfg.ptAddr) ∧
        exec .ptInit s = .next { s with
          history := s.history ++ l
          oracle := rest
          draws := s.draws + l.length
          responses := answeredWith s .busError 0 }

/-- R108: PT.CALVFY ends with CalibrationError when nothing is loaded; otherwise CAL_VALID and the value are the
comparison's result and the status is OK; eight zero words pass. -/
def Obligations.PtCalvfyComparesChecksum : Prop :=
  encode .ptCalvfy = 0x11000000#32 ∧
  (∀ s : State, s.cal = none →
    exec .ptCalvfy s = .next { s with responses := answeredWith s .calibrationError 0 }) ∧
  (∀ (s : State) (c : Coeffs), s.cal = some c →
    exec .ptCalvfy s = .next { s with
      calValid := checksumOk c
      responses := answeredWith s .ok (if checksumOk c then 1 else 0) }) ∧
  checksumOk ⟨0, 0, 0, 0, 0, 0, 0, 0⟩ = true

/-- R106, R107: crc4 is the rule's algorithm on every coefficient set (the bytes, each word's high byte first and the
last low byte as 0; eight shift steps after each; the top nibble), with the values of V40-1; the checksum is compared
with the nibble C[7][3:0]; from a set that passes, flipping any one of the 120 protected bits or of the four checksum
bits is detected, flipping one of C[7][7:4] is not, and two flips can cancel. The checksum's byte order, start value,
mask, polynomial and the nibble's place are the spec's general knowledge (R102, R106; log 14). -/
def Obligations.ChecksumDetectsSingleBitFlips : Prop :=
  (∀ c : Coeffs, crc4 c =
    ([c.c0.toNat / 256, c.c0.toNat % 256, c.c1.toNat / 256, c.c1.toNat % 256,
      c.c2.toNat / 256, c.c2.toNat % 256, c.c3.toNat / 256, c.c3.toNat % 256,
      c.c4.toNat / 256, c.c4.toNat % 256, c.c5.toNat / 256, c.c5.toNat % 256,
      c.c6.toNat / 256, c.c6.toNat % 256, c.c7.toNat / 256, 0].foldl
        (fun (rem : Half) (b : Nat) =>
          (fun r : Half =>
            if 2 ^ 15 ≤ r.toNat then BitVec.ofNat 16 (2 * r.toNat) ^^^ 0x3000#16 else BitVec.ofNat 16 (2 * r.toNat))^[8]
              (rem ^^^ BitVec.ofNat 16 b)) 0).extractLsb' 12 4) ∧
  (∀ last ∈ [0x4546, 0x450B, 0x4500, 0x45FF],
    crc4 ⟨0x3132, 0x3334, 0x3536, 0x3738, 0x3940, 0x4142, 0x4344, last⟩ = 0xB) ∧
  crc4 ⟨0x3132, 0x3334, 0x3536, 0x3738, 0x3940, 0x82B8, 0x6E98, 0x4502⟩ = 0x2 ∧
  crc4 ⟨0x3132, 0x3334, 0x3536, 0x3738, 0x3940, 0x82B8, 0x6E98, 0x4503⟩ = 0x2 ∧
  crc4 ⟨0, 0, 0, 0, 0, 0, 0, 0⟩ = 0x0 ∧
  crc4 ⟨0xFFFF, 0xFFFF, 0xFFFF, 0xFFFF, 0xFFFF, 0xFFFF, 0xFFFF, 0xFFFF⟩ = 0x0 ∧
  crc4 ⟨0x0000, 0x9CBF, 0x903C, 0x5B15, 0x5AF2, 0x82B8, 0x6E98, 0x0000⟩ = 0x0 ∧
  crc4 ⟨0x3132, 0x3334, 0x3536, 0x3738, 0x3940, 0x82B8, 0x6E98, 0⟩ = 0xA ∧
  (∀ c : Coeffs, checksumOk c = true ↔ crc4 c = c.c7.extractLsb' 0 4) ∧
  (∀ (c : Coeffs) (w b : Nat), checksumOk c = true → w < 8 → b < 16 →
    (checksumOk (flipBit c w b) = true ↔ w = 7 ∧ 4 ≤ b ∧ b ≤ 7)) ∧
  ∃ (c : Coeffs) (w b w' b' : Nat), w < 7 ∧ b < 16 ∧ w' < 7 ∧ b' < 16 ∧ (w, b) ≠ (w', b') ∧
    checksumOk c = true ∧ checksumOk (flipBit (flipBit c w b) w' b') = true

/-- R113: PT.TEMP is refused with no bus access unless the coefficients are verified; otherwise it commands a
conversion, reads three bytes, most significant first, and answers the temperature of R111 as its s32 image; a failed
transaction ends it with (BusError, 0). The byte order and the command byte of the result read are the spec's general
knowledge (R60, R113; log 14). -/
def Obligations.PtTempConvertsOrRefuses : Prop :=
  encode .ptTemp = 0x13000000#32 ∧
  (∀ s : State, s.calValid = false →
    exec .ptTemp s = .next { s with responses := answeredWith s .calibrationError 0 }) ∧
  (∀ (s : State) (c : Coeffs) (bs : List Byte) (b0 b1 b2 : Byte) (rest : List BusAnswer), s.cfg.wf = true →
    s.calValid = true → s.cal = some c → s.oracle = .ok bs :: .ok [b0, b1, b2] :: rest →
      exec .ptTemp s = .next { s with
        history := s.history ++
          [⟨.W, s.cfg.ptAddr, some s.cfg.ptCmdConvD2, [], true⟩,
           ⟨.WR, s.cfg.ptAddr, some s.cfg.ptCmdAdcRead, [b0, b1, b2], true⟩]
        oracle := rest
        draws := s.draws + 2
        responses := answeredWith s .ok (BitVec.ofInt 32 (2000 +
          Int.tdiv ((((b0.toNat * 65536 + b1.toNat * 256 + b2.toNat : Nat) : Int) - (c.c5.toNat : Int) * 256) *
            (c.c6.toNat : Int)) (2 ^ 23))) }) ∧
  (∀ (s : State) (c : Coeffs) (rest : List BusAnswer), s.cfg.wf = true → s.calValid = true → s.cal = some c →
    s.oracle = .fail :: rest →
      exec .ptTemp s = .next { s with
        history := s.history ++ [⟨.W, s.cfg.ptAddr, some s.cfg.ptCmdConvD2, [], false⟩]
        oracle := rest
        draws := s.draws + 1
        responses := answeredWith s .busError 0 }) ∧
  ∀ (s : State) (c : Coeffs) (bs : List Byte) (rest : List BusAnswer), s.cfg.wf = true → s.calValid = true →
    s.cal = some c → s.oracle = .ok bs :: .fail :: rest →
      exec .ptTemp s = .next { s with
        history := s.history ++
          [⟨.W, s.cfg.ptAddr, some s.cfg.ptCmdConvD2, [], true⟩,
           ⟨.WR, s.cfg.ptAddr, some s.cfg.ptCmdAdcRead, [], false⟩]
        oracle := rest
        draws := s.draws + 2
        responses := answeredWith s .busError 0 }

/-- R111: conv_temp is 2000 + trunc_div(dT * c6, 2^23) with dT = raw - c5 * 256, rounding toward zero, within the ranges
the rule gives, and the 32-bit response carries it exactly. The shift's reading is the spec's general knowledge
(C5; log 14). -/
def Obligations.TemperatureConversionExact : Prop :=
  ∀ raw c5 c6 : Nat, raw < 2 ^ 24 → c5 < 2 ^ 16 → c6 < 2 ^ 16 →
    convTemp raw c5 c6 = 2000 + Int.tdiv (((raw : Int) - (c5 : Int) * 256) * (c6 : Int)) (2 ^ 23) ∧
    (-16776960 ≤ (raw : Int) - (c5 : Int) * 256 ∧ (raw : Int) - (c5 : Int) * 256 ≤ 16777215) ∧
    (-129068 ≤ convTemp raw c5 c6 ∧ convTemp raw c5 c6 ≤ 133069) ∧
    (s32 (convTemp raw c5 c6)).toInt = convTemp raw c5 c6

/-- R120: RH.READ commands a measurement, receives three bytes and answers the humidity of the first two; a failed
transaction ends it with (BusError, 0); nothing else is written and no calibration is looked at. -/
def Obligations.RhReadConverts : Prop :=
  encode .rhRead = 0x14000000#32 ∧
  (∀ (s : State) (bs : List Byte) (b0 b1 b2 : Byte) (rest : List BusAnswer), s.cfg.wf = true →
    s.oracle = .ok bs :: .ok [b0, b1, b2] :: rest →
      exec .rhRead s = .next { s with
        history := s.history ++
          [⟨.W, s.cfg.rhAddr, some s.cfg.rhCmdMeasure, [], true⟩,
           ⟨.R, s.cfg.rhAddr, none, [b0, b1, b2], true⟩]
        oracle := rest
        draws := s.draws + 2
        responses := answeredWith s .ok (BitVec.ofInt 32 (convRh b0 b1)) }) ∧
  (∀ (s : State) (rest : List BusAnswer), s.cfg.wf = true → s.oracle = .fail :: rest →
    exec .rhRead s = .next { s with
      history := s.history ++ [⟨.W, s.cfg.rhAddr, some s.cfg.rhCmdMeasure, [], false⟩]
      oracle := rest
      draws := s.draws + 1
      responses := answeredWith s .busError 0 }) ∧
  ∀ (s : State) (bs : List Byte) (rest : List BusAnswer), s.cfg.wf = true → s.oracle = .ok bs :: .fail :: rest →
    exec .rhRead s = .next { s with
      history := s.history ++
        [⟨.W, s.cfg.rhAddr, some s.cfg.rhCmdMeasure, [], true⟩, ⟨.R, s.cfg.rhAddr, none, [], false⟩]
      oracle := rest
      draws := s.draws + 2
      responses := answeredWith s .busError 0 }

/-- R121, R122: conv_rh is 125 * raw - 393216 for the 16-bit word with its two low bits cleared, within the range given;
the two status bits never change it; the corner values; 0 is never the result.
Which bits are the status bits is the spec's general knowledge (log 14). -/
def Obligations.HumidityConversionExact : Prop :=
  (∀ b0 b1 : Byte,
    convRh b0 b1 = 125 * (((b0.toNat * 256 + b1.toNat) / 4 * 4 : Nat) : Int) - 393216 ∧
    -393216 ≤ convRh b0 b1 ∧ convRh b0 b1 ≤ 7798284 ∧ convRh b0 b1 ≠ 0) ∧
  (∀ b0 b1 b1' : Byte, b1.toNat / 4 = b1'.toNat / 4 → convRh b0 b1 = convRh b0 b1') ∧
  convRh 0x00 0x00 = -393216 ∧ convRh 0xFF 0xFF = 7798284 ∧
  convRh 0x7C 0x80 = 3590784 ∧ convRh 0x7C 0x81 = 3590784 ∧ convRh 0x7C 0x82 = 3590784 ∧
  convRh 0x7C 0x83 = 3590784 ∧ convRh 0x0C 0x48 = -216 ∧ convRh 0x0C 0x4C = 284

/-- R124: SL.INIT reads the config register; a sensor in standby is woken by one write and answered (OK, 1), an awake
one is answered (OK, 0) with no write; a failed transaction ends it with (BusError, 0). -/
def Obligations.SlInitWakesSensor : Prop :=
  encode .slInit = 0x15000000#32 ∧
  (∀ (s : State) (b : Byte) (bs : List Byte) (rest : List BusAnswer), s.cfg.wf = true →
    b &&& s.cfg.slStandbyMask ≠ 0 → s.oracle = .ok [b] :: .ok bs :: rest →
      exec .slInit s = .next { s with
        history := s.history ++
          [⟨.WR, s.cfg.slAddr, some s.cfg.slRegConfig, [b], true⟩,
           ⟨.W, s.cfg.slAddr, some s.cfg.slRegConfig, [s.cfg.slWakeValue], true⟩]
        oracle := rest
        draws := s.draws + 2
        responses := answeredWith s .ok 1 }) ∧
  (∀ (s : State) (b : Byte) (rest : List BusAnswer), s.cfg.wf = true →
    b &&& s.cfg.slStandbyMask = 0 → s.oracle = .ok [b] :: rest →
      exec .slInit s = .next { s with
        history := s.history ++ [⟨.WR, s.cfg.slAddr, some s.cfg.slRegConfig, [b], true⟩]
        oracle := rest
        draws := s.draws + 1
        responses := answeredWith s .ok 0 }) ∧
  (∀ (s : State) (rest : List BusAnswer), s.cfg.wf = true → s.oracle = .fail :: rest →
    exec .slInit s = .next { s with
      history := s.history ++ [⟨.WR, s.cfg.slAddr, some s.cfg.slRegConfig, [], false⟩]
      oracle := rest
      draws := s.draws + 1
      responses := answeredWith s .busError 0 }) ∧
  ∀ (s : State) (b : Byte) (rest : List BusAnswer), s.cfg.wf = true →
    b &&& s.cfg.slStandbyMask ≠ 0 → s.oracle = .ok [b] :: .fail :: rest →
      exec .slInit s = .next { s with
        history := s.history ++
          [⟨.WR, s.cfg.slAddr, some s.cfg.slRegConfig, [b], true⟩,
           ⟨.W, s.cfg.slAddr, some s.cfg.slRegConfig, [s.cfg.slWakeValue], false⟩]
        oracle := rest
        draws := s.draws + 2
        responses := answeredWith s .busError 0 }

/-- R126: SL.TEMP answers the byte read as a signed whole number of degrees; a failed read ends it with
(BusError, 0). -/
def Obligations.SlTempSignExtends : Prop :=
  encode .slTemp = 0x16000000#32 ∧
  (∀ (s : State) (b : Byte) (rest : List BusAnswer), s.cfg.wf = true → s.oracle = .ok [b] :: rest →
    exec .slTemp s = .next { s with
      history := s.history ++ [⟨.WR, s.cfg.slAddr, some s.cfg.slRegTemp, [b], true⟩]
      oracle := rest
      draws := s.draws + 1
      responses := answeredWith s .ok (b.signExtend 32) }) ∧
  ∀ (s : State) (rest : List BusAnswer), s.cfg.wf = true → s.oracle = .fail :: rest →
    exec .slTemp s = .next { s with
      history := s.history ++ [⟨.WR, s.cfg.slAddr, some s.cfg.slRegTemp, [], false⟩]
      oracle := rest
      draws := s.draws + 1
      responses := answeredWith s .busError 0 }

/-! ## The PWM driver (41_pwm_driver.md) -/

/-- R142: PWM.INIT asserts PWM_EN and issues the twelve bring-up writes in order; when they all succeed every register
it names holds its value and the response is (OK, 0); the first failure ends it with (BusError, 0), the writes before it
standing and PWM_EN asserted. No other register changes: that the register whose write failed reads as before is the
spec's decision D20 (R58; log 8). -/
def Obligations.PwmInitBringsUp : Prop :=
  encode .pwmInit = 0x20000000#32 ∧
  (∀ (s : State) (answers rest : List BusAnswer), s.cfg.wf = true → answers.all answerOk = true →
    answers.length = 12 → s.oracle = answers ++ rest →
      ∃ t, exec .pwmInit s = .next t ∧
        t = { s with
          pwmEn := true
          pwmdev := t.pwmdev
          history := s.history ++ pwmEntries s.cfg (bringUp s.cfg) (List.replicate 12 true)
          oracle := rest
          draws := s.draws + 12
          responses := answeredWith s .ok 0 } ∧
        (∀ x ∈ bringUp s.cfg, Memory.read t.pwmdev x.1.toNat = some x.2) ∧
        ∀ r, (∀ x ∈ bringUp s.cfg, r ≠ x.1.toNat) → Memory.read t.pwmdev r = Memory.read s.pwmdev r) ∧
  ∀ (s : State) (answers rest : List BusAnswer), s.cfg.wf = true → answers.all answerOk = true →
    answers.length < 12 → s.oracle = answers ++ .fail :: rest →
      ∃ t, exec .pwmInit s = .next t ∧
        t = { s with
          pwmEn := true
          pwmdev := t.pwmdev
          history := s.history ++
            pwmEntries s.cfg (bringUp s.cfg) (List.replicate answers.length true ++ [false])
          oracle := rest
          draws := s.draws + answers.length + 1
          responses := answeredWith s .busError 0 } ∧
        (∀ x ∈ (bringUp s.cfg).take answers.length, Memory.read t.pwmdev x.1.toNat = some x.2) ∧
        ∀ r, (∀ x ∈ (bringUp s.cfg).take answers.length, r ≠ x.1.toNat) →
          Memory.read t.pwmdev r = Memory.read s.pwmdev r

/-- R145: PWM.SETCH of a channel 0 to 7 issues one write of the duty to that channel's register, which holds it if the
write succeeded; a channel above 7 is InvalidArgument with no bus access. That a failed write leaves DUTY[a] unchanged,
as R145 says, is the spec's decision D20 (R58; log 8). -/
def Obligations.PwmSetchWritesOneChannel : Prop :=
  (∀ a d : Byte, encode (.pwmSetch a d) = BitVec.ofNat 32 (0x21000000 + a.toNat * 256 + d.toNat)) ∧
  (∀ (s : State) (a d : Byte) (x : BusAnswer) (rest : List BusAnswer), s.cfg.wf = true → a.toNat ≤ 7 →
    s.oracle = x :: rest →
      ∃ t, exec (.pwmSetch a d) s = .next t ∧
        WroteChannels s [(a.toNat, d)] [answerOk x] rest (if answerOk x then .ok else .busError) 0 t) ∧
  ∀ (s : State) (a d : Byte), 7 < a.toNat →
    exec (.pwmSetch a d) s = .next { s with responses := answeredWith s .invalidArgument 0 }

/-- R148: PWM.SETGRP writes the duty to every member of the group in list order whatever each write gives; the value is
the number of members written, with an error too; a selector above 2 is InvalidArgument with no bus access. That a
member whose write failed keeps its duty, as the rule's example says, is the spec's decision D20 (R58; log 8). -/
def Obligations.PwmSetgrpWritesEveryMember : Prop :=
  (∀ a d : Byte, encode (.pwmSetgrp a d) = BitVec.ofNat 32 (0x22000000 + a.toNat * 256 + d.toNat)) ∧
  (∀ (s : State) (a d : Byte) (chs : List Nat) (answers rest : List BusAnswer), s.cfg.wf = true →
    (a = 0 ∧ chs = s.cfg.amberCh) ∨ (a = 1 ∧ chs = s.cfg.whiteCh) ∨ (a = 2 ∧ chs = [0, 1, 2, 3, 4, 5, 6, 7]) →
    answers.length = chs.length → s.oracle = answers ++ rest →
      ∃ t, exec (.pwmSetgrp a d) s = .next t ∧
        WroteChannels s (chs.map fun ch => (ch, d)) (answers.map answerOk) rest
          (bestEffortStatus (answers.map answerOk))
          (BitVec.ofNat 32 ((answers.map answerOk).count true)) t) ∧
  ∀ (s : State) (a d : Byte), 2 < a.toNat →
    exec (.pwmSetgrp a d) s = .next { s with responses := answeredWith s .invalidArgument 0 }

/-- R150: the whole table of percent_to_duty (derived in the spec from the formula), the formula, and its
monotonicity. -/
def Obligations.PercentToDutyTable : Prop :=
  ((List.range 101).map fun pct => (percentToDuty pct).toNat) =
    [0, 3, 5, 8, 10, 13, 15, 18, 20, 23, 26, 28, 31, 33, 36, 38, 41, 43, 46, 48,
     51, 54, 56, 59, 61, 64, 66, 69, 71, 74, 77, 79, 82, 84, 87, 89, 92, 94, 97, 99] ++
    [102, 105, 107, 110, 112, 115, 117, 120, 122, 125, 128, 130, 133, 135, 138, 140, 143, 145, 148, 150,
     153, 156, 158, 161, 163, 166, 168, 171, 173, 176, 179, 181, 184, 186, 189, 191, 194, 196, 199, 201] ++
    [204, 207, 209, 212, 214, 217, 219, 222, 224, 227, 230, 232, 235, 237, 240, 242, 245, 247, 250, 252, 255] ∧
  (∀ pct, pct ≤ 100 → (percentToDuty pct).toNat = (pct * 255 + 50) / 100) ∧
  ∀ a b, a ≤ b → b ≤ 100 → (percentToDuty a).toNat ≤ (percentToDuty b).toNat

/-- R151: PWM.PCT2DUTY answers floor((p * 255 + 50) / 100) for a percent up to 100 and InvalidArgument above. -/
def Obligations.PwmPct2dutyAnswers : Prop :=
  (∀ p : Byte, encode (.pwmPct2duty p) = BitVec.ofNat 32 (0x23000000 + p.toNat)) ∧
  (∀ (s : State) (p : Byte), p.toNat ≤ 100 →
    exec (.pwmPct2duty p) s = .next { s with
      responses := answeredWith s .ok (BitVec.ofNat 32 ((p.toNat * 255 + 50) / 100)) }) ∧
  ∀ (s : State) (p : Byte), 100 < p.toNat →
    exec (.pwmPct2duty p) s = .next { s with responses := answeredWith s .invalidArgument 0 }

/-! ## The lamp command and the mixer (42_mixing.md) -/

/-- R160: the mixing function: kelvin by integer division, the clamp, the two weights over the span, and the two rounded
products. -/
def Obligations.MixFollowsTheFormula : Prop :=
  ∀ (p : Params) (b : Byte) (m : Half), p.kMin < p.kMax → m ≠ 0 →
    mixWhite p b.toNat m.toNat =
      (2 * b.toNat * (min (max (1000000 / m.toNat) p.kMin) p.kMax - p.kMin) + (p.kMax - p.kMin)) /
        (2 * (p.kMax - p.kMin)) ∧
    mixAmber p b.toNat m.toNat =
      (2 * b.toNat * (p.kMax - min (max (1000000 / m.toNat) p.kMin) p.kMax) + (p.kMax - p.kMin)) /
        (2 * (p.kMax - p.kMin))

/-- R161 (c), (f): neither duty exceeds the brightness; their sum is b or b + 1, and b + 1 exactly when b * wn / span
has the fractional part one half. -/
def Obligations.MixSumIsBrightnessOrOneMore : Prop :=
  ∀ (p : Params) (b : Byte) (m : Half), p.kMin < p.kMax → m ≠ 0 →
    mixWhite p b.toNat m.toNat ≤ b.toNat ∧ mixAmber p b.toNat m.toNat ≤ b.toNat ∧
    mixAmber p b.toNat m.toNat + mixWhite p b.toNat m.toNat =
      b.toNat + (if 2 * (b.toNat * (mixKelvin p m.toNat - p.kMin) % (p.kMax - p.kMin)) = p.kMax - p.kMin
        then 1 else 0)

/-- R168 (b), (c): brightness 0 gives duty 0 to both groups; at or above K_MAX the light is fully white, at or below
K_MIN fully amber. -/
def Obligations.MixEndsOfTheRange : Prop :=
  ∀ (p : Params) (b : Byte) (m : Half), p.kMin < p.kMax → m ≠ 0 →
    (b = 0 → mixAmber p b.toNat m.toNat = 0 ∧ mixWhite p b.toNat m.toNat = 0) ∧
    (p.kMax ≤ 1000000 / m.toNat → mixAmber p b.toNat m.toNat = 0 ∧ mixWhite p b.toNat m.toNat = b.toNat) ∧
    (1000000 / m.toNat ≤ p.kMin → mixAmber p b.toNat m.toNat = b.toNat ∧ mixWhite p b.toNat m.toNat = 0)

/-- R169 (derived in the spec from R160): the thresholds under the reference configuration, of the mixer's clamped
kelvin and of K before the clamp; between them the clamp changes nothing; the rule's four kelvin values and its fifteen
values as (K, amber, white). -/
def Obligations.MixReferenceValues : Prop :=
  (∀ m : Nat, 1 ≤ m → m ≤ 65535 →
    (mixKelvin Config.refcfg m = 5000 ↔ m ≤ 200) ∧ (mixKelvin Config.refcfg m = 2200 ↔ 455 ≤ m) ∧
    mixKelvin Config.refcfg m ≠ 3600 ∧
    (201 ≤ m → m ≤ 454 → mixKelvin Config.refcfg m = kelvinOf m) ∧
    (5000 ≤ kelvinOf m ↔ m ≤ 200) ∧ (kelvinOf m ≤ 2200 ↔ 455 ≤ m) ∧ kelvinOf m ≠ 3600) ∧
  kelvinOf 454 = 2202 ∧ kelvinOf 455 = 2197 ∧ kelvinOf 277 = 3610 ∧ kelvinOf 278 = 3597 ∧
  ([(255, 1), (255, 199), (255, 200), (255, 201), (128, 250), (255, 277), (255, 278), (254, 278), (1, 278),
    (100, 333), (255, 370), (255, 454), (255, 455), (255, 65535), (0, 300)].map fun (x : Nat × Nat) =>
      (kelvinOf x.2, mixAmber Config.refcfg x.1 x.2, mixWhite Config.refcfg x.1 x.2)) =
    [(1000000, 0, 255), (5025, 0, 255), (5000, 0, 255), (4975, 2, 253), (4000, 46, 82), (3610, 127, 128),
     (3597, 128, 127), (3597, 127, 127), (3597, 1, 0), (3003, 71, 29), (2702, 209, 46), (2202, 255, 0),
     (2197, 255, 0), (15, 255, 0), (3333, 0, 0)]

/-- R162, R164 to R167 in Idle: MIX.APPLY, MIX.RECALL, LAMP.SETB and LAMP.SETCT write the amber group and then the white
group, every member whatever the others give; the lamp register is written first and stays; the value is
white + 256 * amber + 65536, with an error too; their encodings (R84). That a channel whose write failed keeps what it
held is the spec's decision D20 (R58; log 8). -/
def Obligations.MixerDrivesBothGroupsInIdle : Prop :=
  (∀ b : Byte, encode (.lampSetb b) = BitVec.ofNat 32 (0x31000000 + b.toNat)) ∧
  (∀ m : Half, encode (.lampSetct m) = BitVec.ofNat 32 (0x32000000 + m.toNat)) ∧
  (∀ (b : Byte) (m : Half), encode (.mixApply b m) = BitVec.ofNat 32 (0x33000000 + b.toNat * 65536 + m.toNat)) ∧
  encode .mixRecall = 0x34000000#32 ∧
  ∀ (s u : State) (i : Instr) (b : Byte) (m : Half) (answers rest : List BusAnswer), MixOp s i b m u →
    s.cfg.wf = true → s.animState = .idle → m ≠ 0 →
    answers.length = s.cfg.amberCh.length + s.cfg.whiteCh.length → s.oracle = answers ++ rest →
      ∃ t, exec i s = .next t ∧
        WroteChannels u (mixDuties s.cfg b.toNat m.toNat) (answers.map answerOk) rest
          (bestEffortStatus (answers.map answerOk))
          (BitVec.ofNat 32
            (mixWhite s.cfg b.toNat m.toNat + 256 * mixAmber s.cfg b.toNat m.toNat + 65536)) t

/-- R162, R164 to R167 outside Idle: the four mixer operations report the duties with applied = 0, write nothing to the
bus, and LAMP.SETB and LAMP.SETCT still keep their command. -/
def Obligations.MixerIsGatedOutsideIdle : Prop :=
  ∀ (s u : State) (i : Instr) (b : Byte) (m : Half), MixOp s i b m u → s.cfg.wf = true → s.animState ≠ .idle →
    m ≠ 0 →
      exec i s = .next { u with
        responses := answeredWith s .ok
          (BitVec.ofNat 32 (mixWhite s.cfg b.toNat m.toNat + 256 * mixAmber s.cfg b.toNat m.toNat)) }

/-- R162, R163, R165, R166: mireds 0 is InvalidArgument for LAMP.LOAD, LAMP.SETCT and MIX.APPLY, with no state change
and no bus access. -/
def Obligations.ZeroMiredsRefused : Prop :=
  ∀ (s : State) (b : Byte) (i : Instr), i = .lampLoad b 0 ∨ i = .lampSetct 0 ∨ i = .mixApply b 0 →
    exec i s = .next { s with responses := answeredWith s .invalidArgument 0 }

/-- R163: LAMP.LOAD writes both fields of the lamp command in one step and nothing else; mireds 0 changes neither. -/
def Obligations.LampLoadWritesBothFields : Prop :=
  (∀ (b : Byte) (m : Half), encode (.lampLoad b m) = BitVec.ofNat 32 (0x30000000 + b.toNat * 65536 + m.toNat)) ∧
  (∀ (s : State) (b : Byte) (m : Half), m ≠ 0 →
    exec (.lampLoad b m) s = .next { s with
      lampBrightness := b
      lampMireds := m
      responses := answeredWith s .ok 0 }) ∧
  ∀ (s : State) (b : Byte),
    exec (.lampLoad b 0) s = .next { s with responses := answeredWith s .invalidArgument 0 }

/-- R168 (a): MIX.APPLY twice with the same operands, all writes succeeding, leaves after the second call exactly the
registers it left after the first, each group member holding its group's duty. -/
def Obligations.ApplyIsIdempotent : Prop :=
  ∀ (s : State) (b : Byte) (m : Half) (answers answers' rest : List BusAnswer), s.cfg.wf = true →
    s.animState = .idle → m ≠ 0 → answers.all answerOk = true → answers'.all answerOk = true →
    answers.length = s.cfg.amberCh.length + s.cfg.whiteCh.length → answers'.length = answers.length →
    s.oracle = answers ++ answers' ++ rest →
      ∃ t u, exec (.mixApply b m) s = .next t ∧ exec (.mixApply b m) t = .next u ∧
        (∀ r, Memory.read u.pwmdev r = Memory.read t.pwmdev r) ∧
        (∀ ch ∈ s.cfg.amberCh, t.duty ch = some (BitVec.ofNat 8 (mixAmber s.cfg b.toNat m.toNat))) ∧
        ∀ ch ∈ s.cfg.whiteCh, t.duty ch = some (BitVec.ofNat 8 (mixWhite s.cfg b.toNat m.toNat))

/-! ## The animation (43_animation.md) -/

/-- R185, R187, R188, R189: each of the four transitions is one write of ANIM_STATE with SEQ_IDX <- 0 from every state;
nothing else changes, the duties included. -/
def Obligations.TransitionsAreOneWrite : Prop :=
  (encode .animBoot = 0x40000000#32 ∧ encode .animBren = 0x42000000#32 ∧ encode .animStop = 0x43000000#32 ∧
    encode .animBlink = 0x44000000#32) ∧
  ∀ s : State,
    exec .animBoot s = .next { s with
      animState := .bootSequence, seqIdx := 0, responses := answeredWith s .ok 0 } ∧
    exec .animBren s = .next { s with
      animState := .breathing, seqIdx := 0, responses := answeredWith s .ok 0 } ∧
    exec .animStop s = .next { s with
      animState := .idle, seqIdx := 0, responses := answeredWith s .ok 0 } ∧
    exec .animBlink s = .next { s with
      animState := .confirmationBlink, seqIdx := 0, responses := answeredWith s .ok 0 }

/-- R186: ANIM.BRINIT f sets PHASE to 0 and FREQ to f, in every state and for every f, and nothing else. -/
def Obligations.BrinitRestartsPhase : Prop :=
  (∀ f : Turn, encode (.animBrinit f) = BitVec.ofNat 32 (0x41000000 + f.toNat)) ∧
  ∀ (s : State) (f : Turn),
    exec (.animBrinit f) s = .next { s with phase := 0, freq := f, responses := answeredWith s .ok 0 }

/-- R184: the complete transition table: the next ANIM_STATE of every operation in every state; operations outside the
table leave ANIM_STATE and SEQ_IDX alone; the transitions leave the duties and H alone. -/
def Obligations.TransitionTable : Prop :=
  (∀ (i : Instr) (s t : State), exec i s = .next t →
    t.animState =
      (match i with
        | .animBoot => .bootSequence
        | .animBren => .breathing
        | .animStop => .idle
        | .animBlink => .confirmationBlink
        | .animStep =>
          if (s.animState = .bootSequence ∧ s.seqIdx.toNat + 1 = s.cfg.bootFrameCount) ∨
              (s.animState = .confirmationBlink ∧ s.seqIdx.toNat + 1 = s.cfg.blinkFrameCount) then .idle
          else s.animState
        | _ => s.animState) ∧
    (i ≠ .animBoot → i ≠ .animBren → i ≠ .animStop → i ≠ .animBlink → i ≠ .animStep → t.seqIdx = s.seqIdx)) ∧
  ∀ (i : Instr) (s : State), i = .animBoot ∨ i = .animBren ∨ i = .animStop ∨ i = .animBlink →
    ∃ t, exec i s = .next t ∧ t.seqIdx = 0 ∧ t.pwmdev = s.pwmdev ∧ t.history = s.history

/-- R192: outside Breathing ANIM.TICK only answers (OK, 0); in Breathing it advances PHASE by FREQ mod 2^24, writes the
duty of the new phase to all eight channels, best effort (R141), and answers duty + 65536, the phase staying advanced
whatever the bus does. That a channel whose write failed keeps its duty is the spec's decision D20 (R58; log 8). -/
def Obligations.TickAdvancesAndWrites : Prop :=
  encode .animTick = 0x45000000#32 ∧
  (∀ s : State, s.animState ≠ .breathing →
    exec .animTick s = .next { s with responses := answeredWith s .ok 0 }) ∧
  ∀ (s : State) (ph : Turn) (pct : Nat) (answers rest : List BusAnswer), s.cfg.wf = true →
    s.animState = .breathing → ph.toNat = (s.phase.toNat + s.freq.toNat) % 2 ^ 24 →
    sinePct[ph.toNat / 65536]? = some pct → answers.length = 8 → s.oracle = answers ++ rest →
      ∃ t, exec .animTick s = .next t ∧
        WroteChannels { s with phase := ph }
          ([0, 1, 2, 3, 4, 5, 6, 7].map fun ch => (ch, BitVec.ofNat 8 ((pct * 255 + 50) / 100)))
          (answers.map answerOk) rest (bestEffortStatus (answers.map answerOk))
          (BitVec.ofNat 32 ((pct * 255 + 50) / 100 + 65536)) t

/-- R181, R192: after k ticks in Breathing the phase is PHASE + k * FREQ mod 2^24 and the state is still Breathing,
whatever the bus did. -/
def Obligations.PhaseAfterTicks : Prop :=
  ∀ (s : State) (k : Nat), s.animState = .breathing →
    ∃ t, repeatOp .animTick k s = .next t ∧ t.animState = .breathing ∧ t.freq = s.freq ∧
      t.phase.toNat = (s.phase.toNat + k * s.freq.toNat) % 2 ^ 24

/-- R183: the checks a transcription of the sine table can be held to, and the waveform's use of it (R182). -/
def Obligations.SineTableChecks : Prop :=
  sinePct.length = 256 ∧ sinePct.sum = 12800 ∧ (∀ e ∈ sinePct, e ≤ 100) ∧
  (∀ i < 256, sinePct.getD i 0 + sinePct.getD ((i + 128) % 256) 0 = 100) ∧
  (∀ i < 256, sinePct.getD i 0 = sinePct.getD ((384 - i) % 256) 0) ∧
  sinePct.getD 0 0 = 50 ∧ sinePct.getD 128 0 = 50 ∧ sinePct.getD 64 0 = 100 ∧ sinePct.getD 192 0 = 0 ∧
  ∀ ph : Turn, breathDuty ph = percentToDuty (sinePct.getD (ph.toNat / 65536) 0)

/-- R190: the boot sequence frame by frame: the ramp's levels up and down in steps, the spin's fading trail behind the
head for each rotation and head, their order, holds and counts, every level a percent, the last frame all zeros. -/
def Obligations.BootFramesAreTheSequence : Prop :=
  ∀ p : Params, p.wf = true →
    (bootFrames p).length = p.bootFrameCount ∧
    (∀ f ∈ bootFrames p, f.levels.length = 8 ∧ ∀ l ∈ f.levels, l ≤ 100) ∧
    ((bootFrames p).getLast?.map Frame.levels = some (List.replicate 8 0)) ∧
    (p.bootVariant = .ramp → p.bootFrameCount = 2 * p.rampUp + 1 ∧ ∀ k ≤ 2 * p.rampUp,
      (bootFrames p)[k]? =
        some ⟨List.replicate 8 (min 100 (min k (2 * p.rampUp - k) * p.rampStepPct)), p.rampDelayMs⟩) ∧
    (p.bootVariant = .trailSpin → p.bootFrameCount = p.spinRotations * 8 + (2 * p.rampUp + 1) ∧
      (∀ k ≤ 2 * p.rampUp,
        (bootFrames p)[p.spinRotations * 8 + k]? =
          some ⟨List.replicate 8 (min 100 (min k (2 * p.rampUp - k) * p.rampStepPct)), p.rampDelayMs⟩) ∧
      ∀ rot h pos : Nat, rot < p.spinRotations → h < 8 → pos < 8 →
        ∃ f, (bootFrames p)[rot * 8 + h]? = some f ∧ f.holdMs = p.spinDelayMs ∧
          f.levels[pos]? =
            some (Int.toNat ((p.spinHeadPct : Int) - ((h : Int) - (pos : Int)) % 8 * (p.spinTrailStepPct : Int))))

/-- R191: the blink sequence frame by frame: all off, then BLINK_COUNT pulses on and off with their holds; its length;
the last frame all zeros. -/
def Obligations.BlinkFramesAreTheSequence : Prop :=
  ∀ p : Params,
    (blinkFrames p).length = 2 * p.blinkCount + 1 ∧ (blinkFrames p)[0]? = some ⟨List.replicate 8 0, 0⟩ ∧
    (∀ k < p.blinkCount,
      (blinkFrames p)[2 * k + 1]? = some ⟨List.replicate 8 p.blinkOnPct, p.blinkOnMs⟩ ∧
      (blinkFrames p)[2 * k + 2]? = some ⟨List.replicate 8 0, p.blinkOffMs⟩) ∧
    (blinkFrames p).getLast?.map Frame.levels = some (List.replicate 8 0)

/-- R194: outside a sequence ANIM.STEP only answers (OK, 0); in one it writes frame SEQ_IDX to the eight channels, best
effort, and advances, to Idle with SEQ_IDX 0 after the last frame, whatever the bus does; the value is the index, plus
65536, plus 131072 on the last frame. That a frame is eight writes (R193) is derived in the spec; that a channel whose
write failed keeps its duty is the spec's decision D20 (R58; log 8). -/
def Obligations.StepPerformsOneFrame : Prop :=
  encode .animStep = 0x46000000#32 ∧
  (∀ s : State, s.animState = .idle ∨ s.animState = .breathing →
    exec .animStep s = .next { s with responses := answeredWith s .ok 0 }) ∧
  ∀ (s : State) (frames : List Frame) (frame : Frame) (answers rest : List BusAnswer), s.cfg.wf = true →
    (s.animState = .bootSequence ∧ frames = bootFrames s.cfg) ∨
      (s.animState = .confirmationBlink ∧ frames = blinkFrames s.cfg) →
    frames[s.seqIdx.toNat]? = some frame → answers.length = 8 → s.oracle = answers ++ rest →
      ∃ t, exec .animStep s = .next t ∧
        WroteChannels
          (if s.seqIdx.toNat + 1 = frames.length then { s with animState := .idle, seqIdx := 0 }
            else { s with seqIdx := BitVec.ofNat 16 (s.seqIdx.toNat + 1) })
          ([0, 1, 2, 3, 4, 5, 6, 7].zip (frame.levels.map percentToDuty)) (answers.map answerOk) rest
          (bestEffortStatus (answers.map answerOk))
          (BitVec.ofNat 32 (s.seqIdx.toNat + 65536 +
            if s.seqIdx.toNat + 1 = frames.length then 131072 else 0)) t

/-- R195 (derived in the spec from R194): a sequence of n frames started by ANIM.BOOT or ANIM.BLINK is still running,
with SEQ_IDX k, after k < n ANIM.STEP operations, and is over after exactly n, whatever the bus does, in Idle with
SEQ_IDX 0; if the writes of the last frame succeeded every duty is 0. -/
def Obligations.SequenceEndsAfterItsFrames : Prop :=
  ∀ (s : State) (start : Instr) (a : AnimState) (n : Nat), s.cfg.wf = true →
    (start = .animBoot ∧ a = .bootSequence ∧ n = s.cfg.bootFrameCount) ∨
      (start = .animBlink ∧ a = .confirmationBlink ∧ n = s.cfg.blinkFrameCount) →
    ∃ s0, exec start s = .next s0 ∧
      (∀ k < n, ∃ t, repeatOp .animStep k s0 = .next t ∧ t.animState = a ∧ t.seqIdx.toNat = k) ∧
      ∃ u t l, repeatOp .animStep (n - 1) s0 = .next u ∧ exec .animStep u = .next t ∧
        repeatOp .animStep n s0 = .next t ∧ t.animState = .idle ∧ t.seqIdx = 0 ∧
        t.history = u.history ++ l ∧ l.length = 8 ∧
        ((∀ x ∈ l, x.ok = true) → ∀ ch < 8, t.duty ch = some 0)
end

