-- ==== Sys2Proof/Laws/Memory.lean ====
section
/-! SUPPORT. The register file PWMDEV: read after write, and the canonical form is kept by every write. -/

namespace Sys2Proof.Machine

@[simp] theorem Memory.read_nil (r : Nat) : Memory.read [] r = none := rfl

/-- The register written reads as the byte written. -/
@[simp] theorem Memory.read_write_same (m : Memory) (r : Nat) (v : Byte) :
    Memory.read (Memory.write m r v) r = some v := by
  induction m with
  | nil => simp [Memory.write, Memory.read]
  | cons c rest ih =>
    obtain ⟨a, u⟩ := c
    unfold Memory.write
    split
    · simp [Memory.read]
    · split
      · simp [Memory.read]
      · rename_i h1 h2
        simp [Memory.read, ih, Ne.symm h2]

/-- Every other register reads as before. -/
theorem Memory.read_write_other (m : Memory) (r k : Nat) (v : Byte) (h : k ≠ r) :
    Memory.read (Memory.write m r v) k = Memory.read m k := by
  induction m with
  | nil => simp [Memory.write, Memory.read, Ne.symm h]
  | cons c rest ih =>
    obtain ⟨a, u⟩ := c
    unfold Memory.write
    split
    · simp [Memory.read, Ne.symm h]
    · split
      · rename_i h1 h2
        subst h2
        simp [Memory.read, Ne.symm h]
      · simp [Memory.read, ih]

/-- Reading after a write, in one line. -/
theorem Memory.read_write (m : Memory) (r k : Nat) (v : Byte) :
    Memory.read (Memory.write m r v) k = if k = r then some v else Memory.read m k := by
  split
  · next h => subst h; simp
  · next h => exact Memory.read_write_other m r k v h

/-- What the canonical form says of a cell and the one after it. -/
theorem Memory.wf_cons_cons (a b : Nat) (u v : Byte) (rest : Memory) :
    Memory.wf ((a, u) :: (b, v) :: rest) = (decide (a < b) && Memory.wf ((b, v) :: rest)) := rfl

/-- The tail of a canonical form is canonical. -/
theorem Memory.wf_tail {c : Host.Cell} {rest : Memory} (h : Memory.wf (c :: rest) = true) :
    Memory.wf rest = true := by
  obtain ⟨a, u⟩ := c
  cases rest with
  | nil => rfl
  | cons d rest =>
    obtain ⟨b, v⟩ := d
    rw [Memory.wf_cons_cons] at h
    simpa using (Bool.and_eq_true_iff.mp h).2

/-- The first register of a canonical form is a u8. -/
theorem Memory.wf_head {a : Nat} {u : Byte} {rest : Memory} (h : Memory.wf ((a, u) :: rest) = true) : a < 256 := by
  induction rest generalizing a u with
  | nil => simpa [Memory.wf] using h
  | cons d rest ih =>
    obtain ⟨b, v⟩ := d
    rw [Memory.wf_cons_cons] at h
    have h1 := Bool.and_eq_true_iff.mp h
    have := ih h1.2
    have := of_decide_eq_true h1.1
    omega

/-- A canonical form stays one when its first cell is put in front of a canonical rest that starts higher. -/
theorem Memory.wf_cons_of {a : Nat} {u : Byte} {m : Memory} (ha : a < 256) (hm : Memory.wf m = true)
    (hlt : ∀ b v rest, m = (b, v) :: rest → a < b) : Memory.wf ((a, u) :: m) = true := by
  cases m with
  | nil => simpa [Memory.wf] using ha
  | cons d rest =>
    obtain ⟨b, v⟩ := d
    rw [Memory.wf_cons_cons]
    simp [hlt b v rest rfl, hm]

/-- The head of a written form is the head before or the register written. -/
theorem Memory.write_head (m : Memory) (r : Nat) (v : Byte) (a : Nat) (hr : a < r)
    (hm : ∀ b u rest, m = (b, u) :: rest → a < b) :
    ∀ b u rest, Memory.write m r v = (b, u) :: rest → a < b := by
  intro b u rest h
  cases m with
  | nil => simp only [Memory.write, List.cons.injEq, Prod.mk.injEq] at h; omega
  | cons d tl =>
    obtain ⟨c, w⟩ := d
    have hc := hm c w tl rfl
    unfold Memory.write at h
    split at h
    · simp only [List.cons.injEq, Prod.mk.injEq] at h; omega
    · split at h <;> simp only [List.cons.injEq, Prod.mk.injEq] at h <;> omega

/-- Every write keeps the canonical form. -/
theorem Memory.write_wf (m : Memory) (r : Nat) (v : Byte) (hr : r < 256) (h : Memory.wf m = true) :
    Memory.wf (Memory.write m r v) = true := by
  induction m with
  | nil => simpa [Memory.write, Memory.wf] using hr
  | cons c rest ih =>
    obtain ⟨a, u⟩ := c
    have ha := Memory.wf_head h
    have ht := Memory.wf_tail h
    have hlt : ∀ b w tl, rest = (b, w) :: tl → a < b := by
      intro b w tl e
      subst e
      rw [Memory.wf_cons_cons] at h
      exact of_decide_eq_true (Bool.and_eq_true_iff.mp h).1
    unfold Memory.write
    split
    · next h1 =>
      exact Memory.wf_cons_of hr h (by intro b w tl e; simp only [List.cons.injEq, Prod.mk.injEq] at e; omega)
    · split
      · next h1 h2 => subst h2; exact Memory.wf_cons_of hr ht hlt
      · next h1 h2 =>
        exact Memory.wf_cons_of ha (ih ht) (Memory.write_head rest r v a (by omega) hlt)

/-- Below the first register of a canonical form nothing has a value. -/
theorem Memory.read_below {m : Memory} (h : Memory.wf m = true) (r : Nat)
    (hr : ∀ b v rest, m = (b, v) :: rest → r < b) : Memory.read m r = none := by
  induction m with
  | nil => rfl
  | cons c rest ih =>
    obtain ⟨a, u⟩ := c
    have ha := hr a u rest rfl
    have : a ≠ r := by omega
    simp only [Memory.read, this, if_false]
    refine ih (Memory.wf_tail h) ?_
    intro b w tl e
    subst e
    rw [Memory.wf_cons_cons] at h
    have := of_decide_eq_true (Bool.and_eq_true_iff.mp h).1
    omega

/-- Writing the byte a register already holds changes nothing ("idempotent", 20_memory.md R63). -/
theorem Memory.write_same {m : Memory} {r : Nat} {v : Byte} (hm : Memory.wf m = true)
    (h : Memory.read m r = some v) : Memory.write m r v = m := by
  induction m with
  | nil => simp at h
  | cons c rest ih =>
    obtain ⟨a, u⟩ := c
    unfold Memory.write
    split
    · next h1 =>
      have : Memory.read ((a, u) :: rest) r = none :=
        Memory.read_below hm r (by intro b w tl e; simp only [List.cons.injEq, Prod.mk.injEq] at e; omega)
      rw [this] at h
      cases h
    · split
      · next h1 h2 => subst h2; simp only [Memory.read, if_true, Option.some.injEq] at h; rw [h]
      · next h1 h2 =>
        simp only [Memory.read, Ne.symm h2, if_false] at h
        rw [ih (Memory.wf_tail hm) h]

end Sys2Proof.Machine
end

