-- ==== Sys2Proof/Laws/State.lean ====
section
/-! SUPPORT. One lemma per field per named update of the state, true by rfl, so that no later proof unfolds a record
update. -/

namespace Sys2Proof.Machine

/-! ### respond -/

@[simp] theorem respond_cfg (st : Status) (v : Word) (s : State) :
    (respond st v s).cfg = s.cfg := rfl
@[simp] theorem respond_cal (st : Status) (v : Word) (s : State) :
    (respond st v s).cal = s.cal := rfl
@[simp] theorem respond_calValid (st : Status) (v : Word) (s : State) :
    (respond st v s).calValid = s.calValid := rfl
@[simp] theorem respond_lampBrightness (st : Status) (v : Word) (s : State) :
    (respond st v s).lampBrightness = s.lampBrightness := rfl
@[simp] theorem respond_lampMireds (st : Status) (v : Word) (s : State) :
    (respond st v s).lampMireds = s.lampMireds := rfl
@[simp] theorem respond_animState (st : Status) (v : Word) (s : State) :
    (respond st v s).animState = s.animState := rfl
@[simp] theorem respond_phase (st : Status) (v : Word) (s : State) :
    (respond st v s).phase = s.phase := rfl
@[simp] theorem respond_freq (st : Status) (v : Word) (s : State) :
    (respond st v s).freq = s.freq := rfl
@[simp] theorem respond_seqIdx (st : Status) (v : Word) (s : State) :
    (respond st v s).seqIdx = s.seqIdx := rfl
@[simp] theorem respond_pwmEn (st : Status) (v : Word) (s : State) :
    (respond st v s).pwmEn = s.pwmEn := rfl
@[simp] theorem respond_pwmdev (st : Status) (v : Word) (s : State) :
    (respond st v s).pwmdev = s.pwmdev := rfl
@[simp] theorem respond_history (st : Status) (v : Word) (s : State) :
    (respond st v s).history = s.history := rfl
@[simp] theorem respond_input (st : Status) (v : Word) (s : State) :
    (respond st v s).input = s.input := rfl
@[simp] theorem respond_requester (st : Status) (v : Word) (s : State) :
    (respond st v s).requester = s.requester := rfl
@[simp] theorem respond_responses (st : Status) (v : Word) (s : State) :
    (respond st v s).responses = s.responses ++ [⟨s.requester, ⟨st, v⟩⟩] := rfl
@[simp] theorem respond_oracle (st : Status) (v : Word) (s : State) :
    (respond st v s).oracle = s.oracle := rfl
@[simp] theorem respond_draws (st : Status) (v : Word) (s : State) :
    (respond st v s).draws = s.draws := rfl

/-! ### accept -/

@[simp] theorem accept_cfg (src : Source) (rest : List Input) (s : State) :
    (accept src rest s).cfg = s.cfg := rfl
@[simp] theorem accept_cal (src : Source) (rest : List Input) (s : State) :
    (accept src rest s).cal = s.cal := rfl
@[simp] theorem accept_calValid (src : Source) (rest : List Input) (s : State) :
    (accept src rest s).calValid = s.calValid := rfl
@[simp] theorem accept_lampBrightness (src : Source) (rest : List Input) (s : State) :
    (accept src rest s).lampBrightness = s.lampBrightness := rfl
@[simp] theorem accept_lampMireds (src : Source) (rest : List Input) (s : State) :
    (accept src rest s).lampMireds = s.lampMireds := rfl
@[simp] theorem accept_animState (src : Source) (rest : List Input) (s : State) :
    (accept src rest s).animState = s.animState := rfl
@[simp] theorem accept_phase (src : Source) (rest : List Input) (s : State) :
    (accept src rest s).phase = s.phase := rfl
@[simp] theorem accept_freq (src : Source) (rest : List Input) (s : State) :
    (accept src rest s).freq = s.freq := rfl
@[simp] theorem accept_seqIdx (src : Source) (rest : List Input) (s : State) :
    (accept src rest s).seqIdx = s.seqIdx := rfl
@[simp] theorem accept_pwmEn (src : Source) (rest : List Input) (s : State) :
    (accept src rest s).pwmEn = s.pwmEn := rfl
@[simp] theorem accept_pwmdev (src : Source) (rest : List Input) (s : State) :
    (accept src rest s).pwmdev = s.pwmdev := rfl
@[simp] theorem accept_history (src : Source) (rest : List Input) (s : State) :
    (accept src rest s).history = s.history := rfl
@[simp] theorem accept_input (src : Source) (rest : List Input) (s : State) :
    (accept src rest s).input = rest := rfl
@[simp] theorem accept_requester (src : Source) (rest : List Input) (s : State) :
    (accept src rest s).requester = src := rfl
@[simp] theorem accept_responses (src : Source) (rest : List Input) (s : State) :
    (accept src rest s).responses = s.responses := rfl
@[simp] theorem accept_oracle (src : Source) (rest : List Input) (s : State) :
    (accept src rest s).oracle = s.oracle := rfl
@[simp] theorem accept_draws (src : Source) (rest : List Input) (s : State) :
    (accept src rest s).draws = s.draws := rfl

/-! ### enterState -/

@[simp] theorem enterState_cfg (a : AnimState) (s : State) :
    (enterState a s).cfg = s.cfg := rfl
@[simp] theorem enterState_cal (a : AnimState) (s : State) :
    (enterState a s).cal = s.cal := rfl
@[simp] theorem enterState_calValid (a : AnimState) (s : State) :
    (enterState a s).calValid = s.calValid := rfl
@[simp] theorem enterState_lampBrightness (a : AnimState) (s : State) :
    (enterState a s).lampBrightness = s.lampBrightness := rfl
@[simp] theorem enterState_lampMireds (a : AnimState) (s : State) :
    (enterState a s).lampMireds = s.lampMireds := rfl
@[simp] theorem enterState_animState (a : AnimState) (s : State) :
    (enterState a s).animState = a := rfl
@[simp] theorem enterState_phase (a : AnimState) (s : State) :
    (enterState a s).phase = s.phase := rfl
@[simp] theorem enterState_freq (a : AnimState) (s : State) :
    (enterState a s).freq = s.freq := rfl
@[simp] theorem enterState_seqIdx (a : AnimState) (s : State) :
    (enterState a s).seqIdx = 0 := rfl
@[simp] theorem enterState_pwmEn (a : AnimState) (s : State) :
    (enterState a s).pwmEn = s.pwmEn := rfl
@[simp] theorem enterState_pwmdev (a : AnimState) (s : State) :
    (enterState a s).pwmdev = s.pwmdev := rfl
@[simp] theorem enterState_history (a : AnimState) (s : State) :
    (enterState a s).history = s.history := rfl
@[simp] theorem enterState_input (a : AnimState) (s : State) :
    (enterState a s).input = s.input := rfl
@[simp] theorem enterState_requester (a : AnimState) (s : State) :
    (enterState a s).requester = s.requester := rfl
@[simp] theorem enterState_responses (a : AnimState) (s : State) :
    (enterState a s).responses = s.responses := rfl
@[simp] theorem enterState_oracle (a : AnimState) (s : State) :
    (enterState a s).oracle = s.oracle := rfl
@[simp] theorem enterState_draws (a : AnimState) (s : State) :
    (enterState a s).draws = s.draws := rfl

/-! ### performIllegal -/

@[simp] theorem performIllegal_cfg (s : State) :
    (performIllegal s).cfg = s.cfg := rfl
@[simp] theorem performIllegal_cal (s : State) :
    (performIllegal s).cal = s.cal := rfl
@[simp] theorem performIllegal_calValid (s : State) :
    (performIllegal s).calValid = s.calValid := rfl
@[simp] theorem performIllegal_lampBrightness (s : State) :
    (performIllegal s).lampBrightness = s.lampBrightness := rfl
@[simp] theorem performIllegal_lampMireds (s : State) :
    (performIllegal s).lampMireds = s.lampMireds := rfl
@[simp] theorem performIllegal_animState (s : State) :
    (performIllegal s).animState = s.animState := rfl
@[simp] theorem performIllegal_phase (s : State) :
    (performIllegal s).phase = s.phase := rfl
@[simp] theorem performIllegal_freq (s : State) :
    (performIllegal s).freq = s.freq := rfl
@[simp] theorem performIllegal_seqIdx (s : State) :
    (performIllegal s).seqIdx = s.seqIdx := rfl
@[simp] theorem performIllegal_pwmEn (s : State) :
    (performIllegal s).pwmEn = s.pwmEn := rfl
@[simp] theorem performIllegal_pwmdev (s : State) :
    (performIllegal s).pwmdev = s.pwmdev := rfl
@[simp] theorem performIllegal_history (s : State) :
    (performIllegal s).history = s.history := rfl
@[simp] theorem performIllegal_input (s : State) :
    (performIllegal s).input = s.input := rfl
@[simp] theorem performIllegal_requester (s : State) :
    (performIllegal s).requester = s.requester := rfl
@[simp] theorem performIllegal_responses (s : State) :
    (performIllegal s).responses = s.responses ++ [⟨s.requester, ⟨.invalidArgument, 0⟩⟩] := rfl
@[simp] theorem performIllegal_oracle (s : State) :
    (performIllegal s).oracle = s.oracle := rfl
@[simp] theorem performIllegal_draws (s : State) :
    (performIllegal s).draws = s.draws := rfl

/-! ### transact -/

@[simp] theorem transact_cfg (q : BusRequest) (s : State) :
    ((transact q s).2).cfg = s.cfg := rfl
@[simp] theorem transact_cal (q : BusRequest) (s : State) :
    ((transact q s).2).cal = s.cal := rfl
@[simp] theorem transact_calValid (q : BusRequest) (s : State) :
    ((transact q s).2).calValid = s.calValid := rfl
@[simp] theorem transact_lampBrightness (q : BusRequest) (s : State) :
    ((transact q s).2).lampBrightness = s.lampBrightness := rfl
@[simp] theorem transact_lampMireds (q : BusRequest) (s : State) :
    ((transact q s).2).lampMireds = s.lampMireds := rfl
@[simp] theorem transact_animState (q : BusRequest) (s : State) :
    ((transact q s).2).animState = s.animState := rfl
@[simp] theorem transact_phase (q : BusRequest) (s : State) :
    ((transact q s).2).phase = s.phase := rfl
@[simp] theorem transact_freq (q : BusRequest) (s : State) :
    ((transact q s).2).freq = s.freq := rfl
@[simp] theorem transact_seqIdx (q : BusRequest) (s : State) :
    ((transact q s).2).seqIdx = s.seqIdx := rfl
@[simp] theorem transact_pwmEn (q : BusRequest) (s : State) :
    ((transact q s).2).pwmEn = s.pwmEn := rfl
@[simp] theorem transact_pwmdev (q : BusRequest) (s : State) :
    ((transact q s).2).pwmdev = deviceEffect s.cfg (historyEntry q (busAnswer q s)) s.pwmdev := rfl
@[simp] theorem transact_history (q : BusRequest) (s : State) :
    ((transact q s).2).history = s.history ++ [historyEntry q (busAnswer q s)] := rfl
@[simp] theorem transact_input (q : BusRequest) (s : State) :
    ((transact q s).2).input = s.input := rfl
@[simp] theorem transact_requester (q : BusRequest) (s : State) :
    ((transact q s).2).requester = s.requester := rfl
@[simp] theorem transact_responses (q : BusRequest) (s : State) :
    ((transact q s).2).responses = s.responses := rfl
@[simp] theorem transact_oracle (q : BusRequest) (s : State) :
    ((transact q s).2).oracle = s.oracle.tail := rfl
@[simp] theorem transact_draws (q : BusRequest) (s : State) :
    ((transact q s).2).draws = s.draws + 1 := rfl

/-! ### applyReset -/

@[simp] theorem applyReset_cfg (rest : List Input) (s : State) :
    (applyReset rest s).cfg = s.cfg := rfl
@[simp] theorem applyReset_cal (rest : List Input) (s : State) :
    (applyReset rest s).cal = none := rfl
@[simp] theorem applyReset_calValid (rest : List Input) (s : State) :
    (applyReset rest s).calValid = false := rfl
@[simp] theorem applyReset_lampBrightness (rest : List Input) (s : State) :
    (applyReset rest s).lampBrightness = s.cfg.defaultBrightness := rfl
@[simp] theorem applyReset_lampMireds (rest : List Input) (s : State) :
    (applyReset rest s).lampMireds = s.cfg.defaultMireds := rfl
@[simp] theorem applyReset_animState (rest : List Input) (s : State) :
    (applyReset rest s).animState = .idle := rfl
@[simp] theorem applyReset_phase (rest : List Input) (s : State) :
    (applyReset rest s).phase = 0 := rfl
@[simp] theorem applyReset_freq (rest : List Input) (s : State) :
    (applyReset rest s).freq = 0 := rfl
@[simp] theorem applyReset_seqIdx (rest : List Input) (s : State) :
    (applyReset rest s).seqIdx = 0 := rfl
@[simp] theorem applyReset_pwmEn (rest : List Input) (s : State) :
    (applyReset rest s).pwmEn = false := rfl
@[simp] theorem applyReset_pwmdev (rest : List Input) (s : State) :
    (applyReset rest s).pwmdev = [] := rfl
@[simp] theorem applyReset_history (rest : List Input) (s : State) :
    (applyReset rest s).history = [] := rfl
@[simp] theorem applyReset_input (rest : List Input) (s : State) :
    (applyReset rest s).input = rest := rfl
@[simp] theorem applyReset_requester (rest : List Input) (s : State) :
    (applyReset rest s).requester = s.requester := rfl
@[simp] theorem applyReset_responses (rest : List Input) (s : State) :
    (applyReset rest s).responses = s.responses := rfl
@[simp] theorem applyReset_oracle (rest : List Input) (s : State) :
    (applyReset rest s).oracle = s.oracle := rfl
@[simp] theorem applyReset_draws (rest : List Input) (s : State) :
    (applyReset rest s).draws = s.draws := rfl

/-! ### resetWith -/

@[simp] theorem resetWith_cfg (p : Params) :
    (State.resetWith p).cfg = p := rfl
@[simp] theorem resetWith_cal (p : Params) :
    (State.resetWith p).cal = none := rfl
@[simp] theorem resetWith_calValid (p : Params) :
    (State.resetWith p).calValid = false := rfl
@[simp] theorem resetWith_lampBrightness (p : Params) :
    (State.resetWith p).lampBrightness = p.defaultBrightness := rfl
@[simp] theorem resetWith_lampMireds (p : Params) :
    (State.resetWith p).lampMireds = p.defaultMireds := rfl
@[simp] theorem resetWith_animState (p : Params) :
    (State.resetWith p).animState = .idle := rfl
@[simp] theorem resetWith_phase (p : Params) :
    (State.resetWith p).phase = 0 := rfl
@[simp] theorem resetWith_freq (p : Params) :
    (State.resetWith p).freq = 0 := rfl
@[simp] theorem resetWith_seqIdx (p : Params) :
    (State.resetWith p).seqIdx = 0 := rfl
@[simp] theorem resetWith_pwmEn (p : Params) :
    (State.resetWith p).pwmEn = false := rfl
@[simp] theorem resetWith_pwmdev (p : Params) :
    (State.resetWith p).pwmdev = [] := rfl
@[simp] theorem resetWith_history (p : Params) :
    (State.resetWith p).history = [] := rfl
@[simp] theorem resetWith_input (p : Params) :
    (State.resetWith p).input = [] := rfl
@[simp] theorem resetWith_requester (p : Params) :
    (State.resetWith p).requester = .host := rfl
@[simp] theorem resetWith_responses (p : Params) :
    (State.resetWith p).responses = [] := rfl
@[simp] theorem resetWith_oracle (p : Params) :
    (State.resetWith p).oracle = [] := rfl
@[simp] theorem resetWith_draws (p : Params) :
    (State.resetWith p).draws = 0 := rfl

/-- The answer of a transaction is the oracle's (20_memory.md R51). -/
@[simp] theorem transact_answer (q : BusRequest) (s : State) : (transact q s).1 = busAnswer q s := rfl

end Sys2Proof.Machine
end

