-- ==== Sys2Proof/Laws/Bus.lean ====
section
/-! SUPPORT. The bus, said once: what an answer can be, what one transaction leaves, how runs of transactions compose,
and how a run that stops at its first failure ends. -/

namespace Sys2Proof.Machine

/-! ## Answers -/

/-- A received answer has exactly the bytes the request asks for. -/
theorem busAnswer_length {q : BusRequest} {s : State} {bytes : List Byte} (h : busAnswer q s = some bytes) :
    bytes.length = bytesExpected q := by
  unfold busAnswer at h
  split at h
  · cases h
  · cases h; simp
  · split at h
    · cases h; simp
    · cases h

/-- A scripted failure is BusError. -/
theorem busAnswer_fail {s : State} {rest : List BusAnswer} (q : BusRequest) (h : s.oracle = .fail :: rest) :
    busAnswer q s = none := by
  simp [busAnswer, h]

/-- A scripted success that supplies the bytes asked for is received as it stands. -/
theorem busAnswer_ok {s : State} {rest : List BusAnswer} {bytes : List Byte} (q : BusRequest)
    (h : s.oracle = .ok bytes :: rest) (hn : bytes.length = bytesExpected q) : busAnswer q s = some bytes := by
  simp only [busAnswer, h, Option.some.injEq]
  rw [← hn]
  apply List.ext_getElem
  · simp
  · intro i h1 h2
    simp [List.getD_eq_getElem?_getD, List.getElem?_eq_getElem h2]

/-- A request that receives nothing is answered with no bytes. -/
theorem busAnswer_ok_empty {s : State} {rest : List BusAnswer} {bytes : List Byte} (q : BusRequest)
    (h : s.oracle = .ok bytes :: rest) (hn : bytesExpected q = 0) : busAnswer q s = some [] := by
  simp [busAnswer, h, hn]

/-- A scripted answer decides whether a transaction succeeds. -/
theorem busAnswer_isSome {q : BusRequest} {s : State} {a : BusAnswer} {rest : List BusAnswer}
    (h : s.oracle = a :: rest) : (busAnswer q s).isSome = answerOk a := by
  cases a <;> simp [busAnswer, h, answerOk]

/-! ## History entries -/

/-- The device a request addresses. -/
def requestAddr : BusRequest → DevAddr
  | .write addr _ _ => addr
  | .read addr _ => addr
  | .writeRead addr _ _ => addr
  | .probe addr => addr

/-- The entry of a transaction is ok exactly when the oracle answered. -/
@[simp] theorem historyEntry_ok (q : BusRequest) (a : Option (List Byte)) : (historyEntry q a).ok = a.isSome := by
  cases q <;> rfl

@[simp] theorem historyEntry_addr (q : BusRequest) (a : Option (List Byte)) :
    (historyEntry q a).addr = requestAddr q := by
  cases q <;> rfl

/-! ## The device after a list of transactions -/

/-- The register file after a list of transactions, in order (20_memory.md R58). -/
def deviceAfter (p : Params) (l : List Transaction) (dev : Memory) : Memory :=
  l.foldl (fun d t => deviceEffect p t d) dev

@[simp] theorem deviceAfter_nil (p : Params) (dev : Memory) : deviceAfter p [] dev = dev := rfl

@[simp] theorem deviceAfter_cons (p : Params) (t : Transaction) (l : List Transaction) (dev : Memory) :
    deviceAfter p (t :: l) dev = deviceAfter p l (deviceEffect p t dev) := rfl

theorem deviceAfter_append (p : Params) (l l' : List Transaction) (dev : Memory) :
    deviceAfter p (l ++ l') dev = deviceAfter p l' (deviceAfter p l dev) := List.foldl_append

/-- A transaction to another device leaves the PWM controller alone. -/
theorem deviceEffect_other {p : Params} {t : Transaction} (dev : Memory) (h : t.addr ≠ p.pwmAddr) :
    deviceEffect p t dev = dev := by
  unfold deviceEffect
  split
  · next addr reg v => simp at h; simp [h]
  · rfl

/-- Transactions to other devices leave the PWM controller alone. -/
theorem deviceAfter_other {p : Params} {l : List Transaction} (dev : Memory) (h : ∀ t ∈ l, t.addr ≠ p.pwmAddr) :
    deviceAfter p l dev = dev := by
  induction l with
  | nil => rfl
  | cons t l ih =>
    rw [deviceAfter_cons, deviceEffect_other dev (h t (by simp)), ih (fun x hx => h x (by simp [hx]))]

/-- What one transaction does to the register file, register by register (20_memory.md R58). -/
theorem deviceEffect_read (p : Params) (t : Transaction) (dev : Memory) (r : Nat) :
    Memory.read (deviceEffect p t dev) r = (storedByte p r t).or (Memory.read dev r) := by
  unfold deviceEffect
  split
  · next addr reg v =>
    by_cases ha : addr = p.pwmAddr
    · simp only [ha, if_true, Memory.read_write, storedByte, true_and, Option.map_some, Option.some.injEq, and_true]
      by_cases hr : r = reg.toNat
      · simp [hr]
      · simp [hr, Ne.symm hr]
    · simp [storedByte, ha]
  · next h =>
    have : storedByte p r t = none := by
      unfold storedByte
      split
      · next v hv =>
        split
        · next hc =>
          obtain ⟨h1, h2, h3, h4⟩ := hc
          obtain ⟨k, a, g, b, o⟩ := t
          cases g with
          | none => simp at h3
          | some g => exact absurd (by simp_all) (h a g v)
        · rfl
      · rfl
    simp [this]

/-- One transaction keeps the register file's canonical form. -/
theorem deviceEffect_wf (p : Params) (t : Transaction) (dev : Memory) (h : Memory.wf dev = true) :
    Memory.wf (deviceEffect p t dev) = true := by
  unfold deviceEffect
  split
  · next addr reg v =>
    split
    · exact Memory.write_wf dev reg.toNat v reg.isLt h
    · exact h
  · exact h

/-- Any transactions keep the register file's canonical form. -/
theorem deviceAfter_wf (p : Params) (l : List Transaction) (dev : Memory) (h : Memory.wf dev = true) :
    Memory.wf (deviceAfter p l dev) = true := by
  induction l generalizing dev with
  | nil => exact h
  | cons t l ih => exact ih _ (deviceEffect_wf p t dev h)

/-! ## The last byte stored -/

/-- Folding over later transactions, a byte found earlier is kept unless a later one replaces it. -/
theorem foldl_storedByte (p : Params) (r : Nat) (l : List Transaction) (a : Option Byte) :
    l.foldl (fun last t => (storedByte p r t).or last) a = (lastStored p r l).or a := by
  induction l generalizing a with
  | nil => simp [lastStored]
  | cons t l ih =>
    simp only [lastStored, List.foldl_cons]
    rw [ih, ih ((storedByte p r t).or none)]
    simp [Option.or_assoc]

@[simp] theorem lastStored_nil (p : Params) (r : Nat) : lastStored p r [] = none := rfl

@[simp] theorem lastStored_cons (p : Params) (r : Nat) (t : Transaction) (l : List Transaction) :
    lastStored p r (t :: l) = (lastStored p r l).or (storedByte p r t) := by
  show (t :: l).foldl _ none = _
  rw [List.foldl_cons, foldl_storedByte]
  simp

theorem lastStored_append (p : Params) (r : Nat) (l l' : List Transaction) :
    lastStored p r (l ++ l') = (lastStored p r l').or (lastStored p r l) := by
  show (l ++ l').foldl _ none = _
  rw [List.foldl_append, foldl_storedByte]
  rfl

/-- Each register holds the last byte stored there, or what it held before (20_memory.md R58). -/
theorem deviceAfter_read (p : Params) (l : List Transaction) (dev : Memory) (r : Nat) :
    Memory.read (deviceAfter p l dev) r = (lastStored p r l).or (Memory.read dev r) := by
  induction l generalizing dev with
  | nil => simp
  | cons t l ih => simp [ih, deviceEffect_read, Option.or_assoc]

/-! ## Runs of transactions -/

/-- `t` is `s` after exactly the transactions `l`: nothing else changes but the oracle's place. -/
def Issued (s : State) (l : List Transaction) (t : State) : Prop :=
  t = { s with
        pwmdev := deviceAfter s.cfg l s.pwmdev
        history := s.history ++ l
        oracle := t.oracle
        draws := s.draws + l.length }

/-- No transaction changes nothing. -/
theorem Issued.refl (s : State) : Issued s [] s := by simp [Issued]

/-- Runs of transactions compose. -/
theorem Issued.trans {s t u : State} {l l' : List Transaction} (h : Issued s l t) (h' : Issued t l' u) :
    Issued s (l ++ l') u := by
  have hc : t.cfg = s.cfg := by rw [h]
  unfold Issued at *
  rw [h', h]
  simp [Nat.add_assoc, deviceAfter_append]

/-- A transaction, whatever the oracle answers. -/
theorem transact_issued (q : BusRequest) (s : State) :
    Issued s [historyEntry q (busAnswer q s)] (transact q s).2 := rfl

theorem Issued.cfg {s t : State} {l : List Transaction} (h : Issued s l t) : t.cfg = s.cfg := by rw [h]
theorem Issued.cal {s t : State} {l : List Transaction} (h : Issued s l t) : t.cal = s.cal := by rw [h]
theorem Issued.calValid {s t : State} {l : List Transaction} (h : Issued s l t) : t.calValid = s.calValid := by rw [h]
theorem Issued.lampBrightness {s t : State} {l : List Transaction} (h : Issued s l t) :
    t.lampBrightness = s.lampBrightness := by rw [h]
theorem Issued.lampMireds {s t : State} {l : List Transaction} (h : Issued s l t) : t.lampMireds = s.lampMireds := by
  rw [h]
theorem Issued.animState {s t : State} {l : List Transaction} (h : Issued s l t) : t.animState = s.animState := by
  rw [h]
theorem Issued.phase {s t : State} {l : List Transaction} (h : Issued s l t) : t.phase = s.phase := by rw [h]
theorem Issued.freq {s t : State} {l : List Transaction} (h : Issued s l t) : t.freq = s.freq := by rw [h]
theorem Issued.seqIdx {s t : State} {l : List Transaction} (h : Issued s l t) : t.seqIdx = s.seqIdx := by rw [h]
theorem Issued.pwmEn {s t : State} {l : List Transaction} (h : Issued s l t) : t.pwmEn = s.pwmEn := by rw [h]
theorem Issued.pwmdev {s t : State} {l : List Transaction} (h : Issued s l t) :
    t.pwmdev = deviceAfter s.cfg l s.pwmdev := by rw [h]
theorem Issued.input {s t : State} {l : List Transaction} (h : Issued s l t) : t.input = s.input := by rw [h]
theorem Issued.requester {s t : State} {l : List Transaction} (h : Issued s l t) : t.requester = s.requester := by
  rw [h]
theorem Issued.responses {s t : State} {l : List Transaction} (h : Issued s l t) : t.responses = s.responses := by
  rw [h]
theorem Issued.history {s t : State} {l : List Transaction} (h : Issued s l t) : t.history = s.history ++ l := by
  rw [h]
theorem Issued.draws {s t : State} {l : List Transaction} (h : Issued s l t) : t.draws = s.draws + l.length := by
  rw [h]

/-- Each register after a run reads as the last byte the run stored there, or as before. -/
theorem Issued.read {s t : State} {l : List Transaction} (h : Issued s l t) (r : Nat) :
    Memory.read t.pwmdev r = (lastStored s.cfg r l).or (Memory.read s.pwmdev r) := by
  rw [h.pwmdev, deviceAfter_read]

/-! ## Runs that stop at the first failure (40_calibration_conversion.md R100) -/

/-- Every transaction succeeded. -/
def AllOk (l : List Transaction) : Prop := ∀ t ∈ l, t.ok = true

/-- Every transaction succeeded but the last. -/
def StoppedAtFailure (l : List Transaction) : Prop :=
  ∃ before last, l = before ++ [last] ∧ AllOk before ∧ last.ok = false

theorem AllOk.nil : AllOk [] := by simp [AllOk]

theorem AllOk.single {t : Transaction} (h : t.ok = true) : AllOk [t] := by simpa [AllOk] using h

theorem AllOk.append {l l' : List Transaction} (h : AllOk l) (h' : AllOk l') : AllOk (l ++ l') := by
  intro t ht
  rcases List.mem_append.mp ht with ht | ht
  · exact h t ht
  · exact h' t ht

/-- A run whose transactions all succeeded has no failure. -/
theorem AllOk.no_failure {l : List Transaction} (h : AllOk l) : ¬∃ t ∈ l, t.ok = false := by
  rintro ⟨t, ht, hf⟩
  rw [h t ht] at hf
  cases hf

theorem StoppedAtFailure.single {t : Transaction} (h : t.ok = false) : StoppedAtFailure [t] :=
  ⟨[], t, rfl, AllOk.nil, h⟩

theorem AllOk.then_stopped {l l' : List Transaction} (h : AllOk l) (h' : StoppedAtFailure l') :
    StoppedAtFailure (l ++ l') := by
  obtain ⟨b, x, rfl, hb, hx⟩ := h'
  exact ⟨l ++ b, x, by simp, h.append hb, hx⟩

/-- A run that stopped at a failure has one. -/
theorem StoppedAtFailure.has_failure {l : List Transaction} (h : StoppedAtFailure l) : ∃ t ∈ l, t.ok = false := by
  obtain ⟨b, x, rfl, -, hx⟩ := h
  exact ⟨x, by simp, hx⟩

/-- Everything one transaction of such an operation can do: it fails and the operation ends with (BusError, 0), or the
operation goes on with the bytes received. -/
theorem onBus_cases (q : BusRequest) (s : State) (next : List Byte → State → State) :
    (busAnswer q s = none ∧ Issued s [historyEntry q none] (transact q s).2 ∧
      onBus q s next = respond .busError 0 (transact q s).2) ∨
    ∃ bytes, busAnswer q s = some bytes ∧ Issued s [historyEntry q (some bytes)] (transact q s).2 ∧
      onBus q s next = next bytes (transact q s).2 := by
  have hi := transact_issued q s
  cases h : busAnswer q s with
  | none => rw [h] at hi; exact Or.inl ⟨rfl, hi, by simp [onBus, h]⟩
  | some bytes => rw [h] at hi; exact Or.inr ⟨bytes, rfl, hi, by simp [onBus, h]⟩

/-- A scripted failure ends the operation. -/
theorem onBus_fail {s : State} {rest : List BusAnswer} (q : BusRequest) (next : List Byte → State → State)
    (h : s.oracle = .fail :: rest) : onBus q s next = respond .busError 0 (transact q s).2 := by
  simp [onBus, busAnswer_fail q h]

/-- A scripted success that supplies the bytes asked for. -/
theorem onBus_ok {s : State} {rest : List BusAnswer} {bytes : List Byte} (q : BusRequest)
    (next : List Byte → State → State) (h : s.oracle = .ok bytes :: rest) (hn : bytes.length = bytesExpected q) :
    onBus q s next = next bytes (transact q s).2 := by
  simp [onBus, busAnswer_ok q h hn]

/-- A scripted success of a request that receives nothing. -/
theorem onBus_ok_empty {s : State} {rest : List BusAnswer} {bytes : List Byte} (q : BusRequest)
    (next : List Byte → State → State) (h : s.oracle = .ok bytes :: rest) (hn : bytesExpected q = 0) :
    onBus q s next = next [] (transact q s).2 := by
  simp [onBus, busAnswer_ok_empty q h hn]

end Sys2Proof.Machine
end

