-- ==== Sys2Proof/Laws/Driver.lean ====
section
/-! SUPPORT. The PWM driver's shared operations, said once: one channel write, a best-effort run of channel writes,
and the bring-up writes that stop at the first failure. -/

namespace Sys2Proof.Machine

/-! ## Entries -/

@[simp] theorem pwmEntries_nil (p : Params) (oks : List Bool) : pwmEntries p [] oks = [] := rfl

@[simp] theorem pwmEntries_no_answer (p : Params) (ws : List (Byte × Byte)) : pwmEntries p ws [] = [] := by
  cases ws <;> rfl

@[simp] theorem pwmEntries_cons (p : Params) (w : Byte × Byte) (ws : List (Byte × Byte)) (ok : Bool)
    (oks : List Bool) :
    pwmEntries p (w :: ws) (ok :: oks) = ⟨.W, p.pwmAddr, some w.1, [w.2], ok⟩ :: pwmEntries p ws oks := rfl

@[simp] theorem pwmEntries_length (p : Params) (ws : List (Byte × Byte)) (oks : List Bool) :
    (pwmEntries p ws oks).length = min ws.length oks.length := by
  simp [pwmEntries]

/-- Every entry is a write to the PWM controller. -/
theorem pwmEntries_addr {p : Params} {ws : List (Byte × Byte)} {oks : List Bool} {t : Transaction}
    (h : t ∈ pwmEntries p ws oks) : t.kind = .W ∧ t.addr = p.pwmAddr := by
  simp only [pwmEntries, List.mem_map] at h
  obtain ⟨x, -, rfl⟩ := h
  exact ⟨rfl, rfl⟩

/-- Some entry failed exactly when some answer was a failure. -/
theorem pwmEntries_failed (p : Params) (ws : List (Byte × Byte)) (oks : List Bool) (h : oks.length ≤ ws.length) :
    (∃ t ∈ pwmEntries p ws oks, t.ok = false) ↔ oks.all id = false := by
  induction ws generalizing oks with
  | nil => cases oks <;> simp_all
  | cons w ws ih =>
    cases oks with
    | nil => simp
    | cons ok oks =>
      have := ih oks (by simpa using h)
      cases ok <;> simp_all

@[simp] theorem dutyWrites_length (p : Params) (ds : List (Nat × Byte)) : (dutyWrites p ds).length = ds.length := by
  simp [dutyWrites]

@[simp] theorem dutyWrites_cons (p : Params) (x : Nat × Byte) (ds : List (Nat × Byte)) :
    dutyWrites p (x :: ds) = (p.regPwmBase + BitVec.ofNat 8 x.1, x.2) :: dutyWrites p ds := rfl

/-! ## One channel -/

/-- An out-of-range channel makes no bus access (41_pwm_driver.md R140). -/
theorem setChannel_out (ch : Nat) (duty : Byte) (s : State) (h : 7 < ch) :
    setChannel ch duty s = (.invalidArgument, s) := by
  simp [setChannel, Config.nCh, h]

/-- A channel in range is one write, whose answer is the status (41_pwm_driver.md R140). -/
theorem setChannel_in (ch : Nat) (duty : Byte) (s : State) (h : ch < 8) :
    (setChannel ch duty s).2 = (transact (.write s.cfg.pwmAddr (dutyReg s.cfg ch) [duty]) s).2 ∧
    (setChannel ch duty s).1 =
      if (busAnswer (.write s.cfg.pwmAddr (dutyReg s.cfg ch) [duty]) s).isSome then .ok else .busError := by
  have h' : ¬ Config.nCh - 1 < ch := by simp [Config.nCh]; omega
  unfold setChannel
  rw [if_neg h']
  exact ⟨rfl, rfl⟩

/-! ## A best-effort run -/

/-- Everything a best-effort run of channel writes can do: every write is attempted, in order; the status is BusError
exactly when some write failed; the count is the number of successes (41_pwm_driver.md R141, 43_animation.md R193).
Where the oracle is scripted, the answers are the script's. -/
theorem writeChannels_spec (ds : List (Nat × Byte)) (s : State) (h : ∀ x ∈ ds, x.1 < 8) :
    ∃ oks : List Bool, oks.length = ds.length ∧
      Issued s (pwmEntries s.cfg (dutyWrites s.cfg ds) oks) (writeChannels ds s).state ∧
      (writeChannels ds s).status = (if oks.all id then .ok else .busError) ∧
      (writeChannels ds s).count = oks.count true ∧
      ∀ answers rest, s.oracle = answers ++ rest → answers.length = ds.length →
        oks = answers.map answerOk ∧ (writeChannels ds s).state.oracle = rest := by
  induction ds generalizing s with
  | nil =>
    refine ⟨[], rfl, Issued.refl s, rfl, rfl, fun answers rest ho hl => ?_⟩
    have : answers = [] := by simpa using hl
    subst this
    exact ⟨rfl, by simpa [writeChannels] using ho⟩
  | cons x ds ih =>
    obtain ⟨ch, duty⟩ := x
    have hch : ch < 8 := h (ch, duty) (by simp)
    obtain ⟨h2, h1⟩ := setChannel_in ch duty s hch
    obtain ⟨oks, hl, hi, hs, hc, ho⟩ := ih (setChannel ch duty s).2 (fun y hy => h y (by simp [hy]))
    have hcfg : (setChannel ch duty s).2.cfg = s.cfg := by rw [h2]; rfl
    rw [hcfg] at hi
    refine ⟨(busAnswer (.write s.cfg.pwmAddr (dutyReg s.cfg ch) [duty]) s).isSome :: oks, by simp [hl], ?_, ?_, ?_, ?_⟩
    · have := (transact_issued (.write s.cfg.pwmAddr (dutyReg s.cfg ch) [duty]) s)
      rw [← h2] at this
      exact this.trans hi
    · simp only [writeChannels, h1, hs]
      cases (busAnswer (.write s.cfg.pwmAddr (dutyReg s.cfg ch) [duty]) s).isSome <;> simp
    · simp only [writeChannels, h1, hc]
      cases (busAnswer (.write s.cfg.pwmAddr (dutyReg s.cfg ch) [duty]) s).isSome <;> simp
    · intro answers rest hor hlen
      cases answers with
      | nil => simp at hlen
      | cons a answers =>
        have hh : s.oracle = a :: (answers ++ rest) := hor
        have := ho answers rest (by rw [h2]; simp [hh]) (by simpa using hlen)
        refine ⟨?_, this.2⟩
        rw [busAnswer_isSome hh, this.1]
        rfl

/-- A group write is the best-effort run of one duty (41_pwm_driver.md R141). -/
theorem setGroup_eq (chs : List Nat) (duty : Byte) (s : State) :
    setGroup chs duty s = writeChannels (chs.map fun ch => (ch, duty)) s := rfl

/-! ## The bring-up writes -/

/-- The bring-up list of the model is the one of 41_pwm_driver.md R142. -/
theorem initSteps_eq (p : Params) : initSteps p = bringUp p := by
  simp [initSteps, bringUp, Config.allCh, dutyReg]

/-- Everything the bring-up writes can do (41_pwm_driver.md R142): they all succeed and the operation goes on, or the
first failure ends it with (BusError, 0). -/
theorem writeSteps_cases (ws : List (Byte × Byte)) (s : State) :
    (∃ u, Issued s (pwmEntries s.cfg ws (List.replicate ws.length true)) u ∧
      ∀ next, writeSteps ws s next = next u) ∨
    ∃ k u, k < ws.length ∧ Issued s (pwmEntries s.cfg ws (List.replicate k true ++ [false])) u ∧
      ∀ next, writeSteps ws s next = respond .busError 0 u := by
  induction ws generalizing s with
  | nil => exact Or.inl ⟨s, Issued.refl s, fun _ => rfl⟩
  | cons w ws ih =>
    obtain ⟨reg, v⟩ := w
    have hi := transact_issued (.write s.cfg.pwmAddr reg [v]) s
    cases hb : busAnswer (.write s.cfg.pwmAddr reg [v]) s with
    | none =>
      rw [hb] at hi
      exact Or.inr ⟨0, _, by simp, by simpa [historyEntry] using hi, fun next => by simp [writeSteps, onBus, hb]⟩
    | some bytes =>
      rw [hb] at hi
      rcases ih (transact (.write s.cfg.pwmAddr reg [v]) s).2 with ⟨u, hu, he⟩ | ⟨k, u, hk, hu, he⟩
      · refine Or.inl ⟨u, ?_, fun next => by simp [writeSteps, onBus, hb, he]⟩
        simpa [List.replicate_succ, historyEntry] using hi.trans hu
      · refine Or.inr ⟨k + 1, u, by simpa using hk, ?_, fun next => by simp [writeSteps, onBus, hb, he]⟩
        simpa [List.replicate_succ, historyEntry] using hi.trans hu

/-- A script of successes carries the bring-up writes through. -/
theorem writeSteps_scripted (ws : List (Byte × Byte)) (s : State) (answers rest : List BusAnswer)
    (ha : answers.all answerOk) (hl : answers.length = ws.length) (ho : s.oracle = answers ++ rest) :
    ∃ u, Issued s (pwmEntries s.cfg ws (List.replicate ws.length true)) u ∧ u.oracle = rest ∧
      ∀ next, writeSteps ws s next = next u := by
  induction ws generalizing s answers with
  | nil =>
    have : answers = [] := by simpa using hl
    subst this
    exact ⟨s, Issued.refl s, by simpa using ho, fun _ => rfl⟩
  | cons w ws ih =>
    obtain ⟨reg, v⟩ := w
    cases answers with
    | nil => simp at hl
    | cons a answers =>
      have hh : s.oracle = a :: (answers ++ rest) := ho
      have hs := busAnswer_isSome (q := .write s.cfg.pwmAddr reg [v]) hh
      rw [show answerOk a = true by simp_all] at hs
      obtain ⟨b, hb⟩ := Option.isSome_iff_exists.mp hs
      have hi := transact_issued (.write s.cfg.pwmAddr reg [v]) s
      rw [hb] at hi
      obtain ⟨u, hu, hor, he⟩ := ih (transact (.write s.cfg.pwmAddr reg [v]) s).2 answers (by simp_all)
        (by simpa using hl) (by simp [hh])
      refine ⟨u, ?_, hor, fun next => by simp [writeSteps, onBus, hb, he]⟩
      simpa [List.replicate_succ, historyEntry] using hi.trans hu

/-- A scripted failure after `answers.length` successes ends the bring-up there. -/
theorem writeSteps_scripted_failure (ws : List (Byte × Byte)) (s : State) (answers rest : List BusAnswer)
    (ha : answers.all answerOk) (hl : answers.length < ws.length) (ho : s.oracle = answers ++ .fail :: rest) :
    ∃ u, Issued s (pwmEntries s.cfg ws (List.replicate answers.length true ++ [false])) u ∧ u.oracle = rest ∧
      ∀ next, writeSteps ws s next = respond .busError 0 u := by
  induction ws generalizing s answers with
  | nil => simp at hl
  | cons w ws ih =>
    obtain ⟨reg, v⟩ := w
    have hi := transact_issued (.write s.cfg.pwmAddr reg [v]) s
    cases answers with
    | nil =>
      have hh : s.oracle = .fail :: rest := ho
      have hb := busAnswer_fail (.write s.cfg.pwmAddr reg [v]) hh
      rw [hb] at hi
      exact ⟨_, by simpa [historyEntry] using hi, by simp [hh], fun next => by simp [writeSteps, onBus, hb]⟩
    | cons a answers =>
      have hh : s.oracle = a :: (answers ++ .fail :: rest) := ho
      have hs := busAnswer_isSome (q := .write s.cfg.pwmAddr reg [v]) hh
      rw [show answerOk a = true by simp_all] at hs
      obtain ⟨b, hb⟩ := Option.isSome_iff_exists.mp hs
      rw [hb] at hi
      obtain ⟨u, hu, hor, he⟩ := ih (transact (.write s.cfg.pwmAddr reg [v]) s).2 answers (by simp_all)
        (by simpa using hl) (by simp [hh])
      refine ⟨u, ?_, hor, fun next => by simp [writeSteps, onBus, hb, he]⟩
      simpa [List.replicate_succ, historyEntry] using hi.trans hu

end Sys2Proof.Machine
end

