-- ==== Sys2Proof/Laws/Animation.lean ====
section
/-! SUPPORT. The animation's shared operations, said once: a transition, a frame, and the frames of a state. -/

namespace Sys2Proof.Machine

/-- Every transaction run of a frame is over channels of the ring. -/
theorem frameChannels_lt {levels : List Nat} {x : Nat × Byte}
    (h : x ∈ Config.allCh.zip (levels.map percentToDuty)) : x.1 < 8 := by
  have := (List.of_mem_zip h).1
  simp only [Config.allCh, List.mem_cons, List.not_mem_nil, or_false] at this
  omega

/-- Everything a frame can do (43_animation.md R193): every channel of the ring is written, in ring order, and the status
is BusError exactly when some write failed. -/
theorem applyFrame_spec (levels : List Nat) (s : State) :
    ∃ oks : List Bool, oks.length = (Config.allCh.zip (levels.map percentToDuty)).length ∧
      Issued s (pwmEntries s.cfg (dutyWrites s.cfg (Config.allCh.zip (levels.map percentToDuty))) oks)
        (applyFrame levels s).state ∧
      (applyFrame levels s).status = (if oks.all id then .ok else .busError) ∧
      ∀ answers rest, s.oracle = answers ++ rest →
        answers.length = (Config.allCh.zip (levels.map percentToDuty)).length →
        oks = answers.map answerOk ∧ (applyFrame levels s).state.oracle = rest := by
  obtain ⟨oks, h1, h2, h3, -, h4⟩ := writeChannels_spec _ s fun x hx => frameChannels_lt (levels := levels) hx
  exact ⟨oks, h1, h2, h3, h4⟩

/-- The states that have no frames. -/
theorem runningFrames_none {s : State} : runningFrames s = none ↔ s.animState = .idle ∨ s.animState = .breathing := by
  unfold runningFrames
  cases s.animState <;> simp

/-- What SEQ_IDX in range means while a sequence runs. -/
theorem seqInRange_running {s : State} {frames : List Frame} (h : seqInRange s = true)
    (hf : runningFrames s = some frames) : s.seqIdx.toNat < frames.length := by
  simpa [seqInRange, hf] using h

/-- Outside a sequence ANIM.STEP does nothing (43_animation.md R194). -/
theorem execAnimStep_none {s : State} (h : runningFrames s = none) : execAnimStep s = .next (respond .ok 0 s) := by
  simp [execAnimStep, h]

/-- The last frame of a sequence (43_animation.md R194). -/
theorem execAnimStep_last {s : State} {frames : List Frame} {frame : Frame} (h : runningFrames s = some frames)
    (hf : frames[s.seqIdx.toNat]? = some frame) (hl : s.seqIdx.toNat + 1 = frames.length) :
    execAnimStep s = .next (respond (applyFrame frame.levels s).status (stepValue s.seqIdx true)
      (enterState .idle (applyFrame frame.levels s).state)) := by
  simp [execAnimStep, h, hf, hl]

/-- Any other frame of a sequence (43_animation.md R194). -/
theorem execAnimStep_more {s : State} {frames : List Frame} {frame : Frame} (h : runningFrames s = some frames)
    (hf : frames[s.seqIdx.toNat]? = some frame) (hl : s.seqIdx.toNat + 1 ≠ frames.length) :
    execAnimStep s = .next (respond (applyFrame frame.levels s).status (stepValue s.seqIdx false)
      { (applyFrame frame.levels s).state with seqIdx := s.seqIdx + 1 }) := by
  simp [execAnimStep, h, hf, hl]

end Sys2Proof.Machine
end

