-- ==== Sys2Proof/Laws/Calibration.lean ====
section
/-! SUPPORT. The PROM read, said once: every outcome of a read that stops at its first failure, and what a scripted
read gives. -/

namespace Sys2Proof.Machine

/-- The two bytes of a word, received most significant first, give the word back (20_memory.md R60). -/
theorem beNat_of_word (w : Half) : BitVec.ofNat 16 (beNat [w.extractLsb' 8 8, w.extractLsb' 0 8]) = w := by
  apply BitVec.eq_of_toNat_eq
  have := w.isLt
  simp [beNat, Nat.shiftRight_eq_div_pow]
  omega

/-- Everything one PROM word read can do (40_calibration_conversion.md R103). -/
theorem promWord_cases (i : Nat) (s : State) :
    (∃ l u, Issued s l u ∧ StoppedAtFailure l ∧ l.length ≤ 2 ∧ (∀ t ∈ l, t.addr = s.cfg.ptAddr) ∧
      ∀ next, promWord i s next = respond .busError 0 u) ∨
    ∃ l u w, Issued s l u ∧ AllOk l ∧ l.length = 2 ∧ (∀ t ∈ l, t.addr = s.cfg.ptAddr) ∧
      ∀ next, promWord i s next = next w u := by
  unfold promWord
  cases hb : busAnswer (.write s.cfg.ptAddr (promCmd s.cfg i) []) s with
  | none =>
    have hi := transact_issued (.write s.cfg.ptAddr (promCmd s.cfg i) []) s
    exact Or.inl ⟨_, _, hi, StoppedAtFailure.single (by simp [hb]), by simp, by simp [requestAddr], fun next => by
      simp [onBus, hb]⟩
  | some b =>
    have hi := transact_issued (.write s.cfg.ptAddr (promCmd s.cfg i) []) s
    have hok : AllOk [historyEntry (.write s.cfg.ptAddr (promCmd s.cfg i) [])
        (busAnswer (.write s.cfg.ptAddr (promCmd s.cfg i) []) s)] := AllOk.single (by simp [hb])
    generalize hs1 : (transact (.write s.cfg.ptAddr (promCmd s.cfg i) []) s).2 = s1 at hi
    have hc := hi.cfg
    have hi' := transact_issued (.read s1.cfg.ptAddr 2) s1
    cases hr : busAnswer (.read s1.cfg.ptAddr 2) s1 with
    | none =>
      refine Or.inl ⟨_, _, hi.trans hi', hok.then_stopped (StoppedAtFailure.single (by simp [hr])), by simp, ?_,
        fun next => by simp [onBus, hb, hs1, hr]⟩
      simp [requestAddr, hc]
    | some b' =>
      refine Or.inr ⟨_, _, BitVec.ofNat 16 (beNat b'), hi.trans hi', hok.append (AllOk.single (by simp [hr])), by simp,
        ?_, fun next => by simp [onBus, hb, hs1, hr]⟩
      simp [requestAddr, hc]

/-- Everything a read of `n` words can do (40_calibration_conversion.md R104): a stop at the first failure, or all the
words. -/
theorem promWords_cases (n i : Nat) (s : State) :
    (∃ l u, Issued s l u ∧ StoppedAtFailure l ∧ l.length ≤ 2 * n ∧ (∀ t ∈ l, t.addr = s.cfg.ptAddr) ∧
      ∀ next, promWords n i s next = respond .busError 0 u) ∨
    ∃ l u ws, Issued s l u ∧ AllOk l ∧ l.length = 2 * n ∧ (∀ t ∈ l, t.addr = s.cfg.ptAddr) ∧ ws.length = n ∧
      ∀ next, promWords n i s next = next ws u := by
  induction n generalizing i s with
  | zero => exact Or.inr ⟨[], s, [], Issued.refl s, AllOk.nil, rfl, by simp, rfl, fun _ => rfl⟩
  | succ n ih =>
    rcases promWord_cases i s with ⟨l, u, hi, hst, hl, ha, he⟩ | ⟨l, u, w, hi, hok, hl, ha, he⟩
    · exact Or.inl ⟨l, u, hi, hst, by omega, ha, fun next => by simp [promWords, he]⟩
    · have haddr : ∀ l' : List Transaction, (∀ t ∈ l', t.addr = u.cfg.ptAddr) →
          ∀ t ∈ l ++ l', t.addr = s.cfg.ptAddr := by
        intro l' h' t ht
        rcases List.mem_append.mp ht with ht | ht
        · exact ha t ht
        · rw [h' t ht, hi.cfg]
      rcases ih (i + 1) u with ⟨l', u', hi', hst', hl', ha', he'⟩ | ⟨l', u', ws, hi', hok', hl', ha', hw, he'⟩
      · exact Or.inl ⟨l ++ l', u', hi.trans hi', hok.then_stopped hst', by simp; omega, haddr l' ha', fun next => by
          simp [promWords, he, he']⟩
      · exact Or.inr ⟨l ++ l', u', w :: ws, hi.trans hi', hok.append hok', by simp; omega, haddr l' ha', by simp [hw],
          fun next => by simp [promWords, he, he']⟩

/-- A scripted successful word read (R103). -/
theorem promWord_scripted (i : Nat) (s : State) (w : Half) (rest : List BusAnswer)
    (h : s.oracle = .ok [] :: .ok [w.extractLsb' 8 8, w.extractLsb' 0 8] :: rest) :
    ∃ u, Issued s (promEntries s.cfg i [w]) u ∧ u.oracle = rest ∧ ∀ next, promWord i s next = next w u := by
  have hb := busAnswer_ok (.write s.cfg.ptAddr (promCmd s.cfg i) []) h rfl
  have h1 := transact_issued (.write s.cfg.ptAddr (promCmd s.cfg i) []) s
  have ho : (transact (.write s.cfg.ptAddr (promCmd s.cfg i) []) s).2.oracle =
      .ok [w.extractLsb' 8 8, w.extractLsb' 0 8] :: rest := by simp [h]
  have hr := busAnswer_ok (.read s.cfg.ptAddr 2) ho rfl
  have h2 := transact_issued (.read s.cfg.ptAddr 2) (transact (.write s.cfg.ptAddr (promCmd s.cfg i) []) s).2
  rw [hb] at h1
  rw [hr] at h2
  refine ⟨(transact (.read s.cfg.ptAddr 2) (transact (.write s.cfg.ptAddr (promCmd s.cfg i) []) s).2).2,
    h1.trans h2, by simp [h], fun next => ?_⟩
  rw [promWord, onBus, hb]
  show onBus (.read s.cfg.ptAddr 2) _ _ = _
  rw [onBus, hr]
  simp only [beNat_of_word]

/-- A scripted successful read (R104). -/
theorem promWords_scripted (ws : List Half) (i : Nat) (s : State) (rest : List BusAnswer)
    (h : s.oracle = promScript ws ++ rest) :
    ∃ u, Issued s (promEntries s.cfg i ws) u ∧ u.oracle = rest ∧
      ∀ next, promWords ws.length i s next = next ws u := by
  induction ws generalizing i s with
  | nil => exact ⟨s, Issued.refl s, by simpa [promScript] using h, fun _ => rfl⟩
  | cons w ws ih =>
    obtain ⟨u, h1, h2, h3⟩ := promWord_scripted i s w (promScript ws ++ rest) (by simpa [promScript] using h)
    obtain ⟨u', h4, h5, h6⟩ := ih (i + 1) u h2
    rw [h1.cfg] at h4
    exact ⟨u', by simpa [promEntries] using h1.trans h4, h5, fun next => by simp [promWords, h3, h6]⟩

/-- A scripted failure stops the read there (R104): with `k` successes before it, k + 1 transactions are issued. -/
theorem promWords_scripted_failure (n i : Nat) (s : State) (answers rest : List BusAnswer)
    (ha : answers.all answerOk) (hk : answers.length < 2 * n) (h : s.oracle = answers ++ .fail :: rest) :
    ∃ l u, Issued s l u ∧ StoppedAtFailure l ∧ l.length = answers.length + 1 ∧ (∀ t ∈ l, t.addr = s.cfg.ptAddr) ∧
      u.oracle = rest ∧ ∀ next, promWords n i s next = respond .busError 0 u := by
  induction n generalizing i s answers with
  | zero => simp at hk
  | succ n ih =>
    have h1 := transact_issued (.write s.cfg.ptAddr (promCmd s.cfg i) []) s
    cases answers with
    | nil =>
      have hb : busAnswer (.write s.cfg.ptAddr (promCmd s.cfg i) []) s = none := busAnswer_fail _ h
      have h' : s.oracle = BusAnswer.fail :: rest := h
      exact ⟨_, _, h1, StoppedAtFailure.single (by simp [hb]), rfl, by simp [requestAddr], by simp [h'], fun next => by
        simp [promWords, promWord, onBus, hb]⟩
    | cons a answers =>
      have h' : s.oracle = a :: (answers ++ .fail :: rest) := h
      have hs := busAnswer_isSome (q := .write s.cfg.ptAddr (promCmd s.cfg i) []) h'
      rw [show answerOk a = true by simp_all] at hs
      obtain ⟨b, hb⟩ := Option.isSome_iff_exists.mp hs
      have hok : AllOk [historyEntry (.write s.cfg.ptAddr (promCmd s.cfg i) [])
        (busAnswer (.write s.cfg.ptAddr (promCmd s.cfg i) []) s)] := AllOk.single (by simp [hb])
      have ho : (transact (.write s.cfg.ptAddr (promCmd s.cfg i) []) s).2.oracle = answers ++ .fail :: rest := by
        simp [h']
      generalize hs1 : (transact (.write s.cfg.ptAddr (promCmd s.cfg i) []) s).2 = s1 at h1 ho
      have hc := h1.cfg
      have h2 := transact_issued (.read s1.cfg.ptAddr 2) s1
      cases answers with
      | nil =>
        have hr : busAnswer (.read s1.cfg.ptAddr 2) s1 = none := busAnswer_fail _ ho
        have ho' : s1.oracle = BusAnswer.fail :: rest := ho
        exact ⟨_, _, h1.trans h2, hok.then_stopped (StoppedAtFailure.single (by simp [hr])), rfl, by
          simp [requestAddr, hc], by simp [ho'], fun next => by simp [promWords, promWord, onBus, hb, hs1, hr]⟩
      | cons a' answers =>
        have ho' : s1.oracle = a' :: (answers ++ .fail :: rest) := ho
        have hs' := busAnswer_isSome (q := .read s1.cfg.ptAddr 2) ho'
        rw [show answerOk a' = true by simp_all] at hs'
        obtain ⟨b', hr⟩ := Option.isSome_iff_exists.mp hs'
        have hok' : AllOk [historyEntry (.read s1.cfg.ptAddr 2) (busAnswer (.read s1.cfg.ptAddr 2) s1)] :=
          AllOk.single (by simp [hr])
        have ho2 : (transact (.read s1.cfg.ptAddr 2) s1).2.oracle = answers ++ .fail :: rest := by simp [ho']
        generalize hs2 : (transact (.read s1.cfg.ptAddr 2) s1).2 = s2 at h2 ho2
        obtain ⟨l, u, hi, hst, hl, had, hor, he⟩ := ih (i + 1) s2 answers (by simp_all) (by simp at hk; omega) ho2
        refine ⟨_, u, (h1.trans h2).trans hi, (hok.append hok').then_stopped hst, by simp [hl], ?_, hor,
          fun next => by simp [promWords, promWord, onBus, hb, hs1, hr, hs2, he]⟩
        intro t ht
        rcases List.mem_append.mp ht with ht | ht
        · simp only [List.cons_append, List.nil_append, List.mem_cons, List.not_mem_nil, or_false] at ht
          rcases ht with rfl | rfl <;> simp [requestAddr, hc]
        · rw [had t ht, h2.cfg, hc]

end Sys2Proof.Machine
end

