-- ==== Sys2Proof/Laws/Mixer.lean ====
section
/-! SUPPORT. The mixer's shared operation `apply`, said once (42_mixing.md R162). -/

namespace Sys2Proof.Machine

/-- A best-effort run of two lists is the run of one after the other. -/
theorem writeChannels_append (xs ys : List (Nat × Byte)) (s : State) :
    (writeChannels (xs ++ ys) s).state = (writeChannels ys (writeChannels xs s).state).state ∧
    (writeChannels (xs ++ ys) s).status =
      (if (writeChannels xs s).status = .ok then (writeChannels ys (writeChannels xs s).state).status
       else (writeChannels xs s).status) ∧
    (writeChannels (xs ++ ys) s).count =
      (writeChannels xs s).count + (writeChannels ys (writeChannels xs s).state).count := by
  induction xs generalizing s with
  | nil => simp [writeChannels]
  | cons x xs ih =>
    obtain ⟨ch, duty⟩ := x
    obtain ⟨h1, h2, h3⟩ := ih (setChannel ch duty s).2
    simp only [List.cons_append, writeChannels, h1, h2, h3, true_and]
    by_cases h : (setChannel ch duty s).1 = .ok
    · simp only [h, if_true, true_and]; omega
    · simp only [h, if_false, true_and]

/-- Mireds 0: refused, nothing changed. -/
theorem applyMix_zero (b : Byte) (s : State) : applyMix b 0 s = (.invalidArgument, 0, s) := by
  simp [applyMix]

/-- The output gate: outside Idle the duties are reported and nothing is written. -/
theorem applyMix_gated {m : Half} {s : State} (b : Byte) (hm : m ≠ 0) (hs : s.animState ≠ .idle) :
    applyMix b m s =
      (.ok, mixValue (BitVec.ofNat 8 (mixAmber s.cfg b.toNat m.toNat))
        (BitVec.ofNat 8 (mixWhite s.cfg b.toNat m.toNat)) false, s) := by
  unfold applyMix
  rw [if_neg hm]
  simp only [hs, if_false]

/-- No channel write changes the configuration. -/
theorem setChannel_cfg (ch : Nat) (duty : Byte) (s : State) : (setChannel ch duty s).2.cfg = s.cfg := by
  unfold setChannel
  split <;> rfl

theorem writeChannels_cfg (ds : List (Nat × Byte)) (s : State) : (writeChannels ds s).state.cfg = s.cfg := by
  induction ds generalizing s with
  | nil => rfl
  | cons x ds ih =>
    obtain ⟨ch, duty⟩ := x
    show (writeChannels ds (setChannel ch duty s).2).state.cfg = s.cfg
    rw [ih, setChannel_cfg]

/-- In Idle `apply` is one best-effort run over both groups. -/
theorem applyMix_idle {m : Half} {s : State} (b : Byte) (hm : m ≠ 0) (hs : s.animState = .idle) :
    applyMix b m s =
      ((writeChannels (mixDuties s.cfg b.toNat m.toNat) s).status,
       mixValue (BitVec.ofNat 8 (mixAmber s.cfg b.toNat m.toNat))
         (BitVec.ofNat 8 (mixWhite s.cfg b.toNat m.toNat)) true,
       (writeChannels (mixDuties s.cfg b.toNat m.toNat) s).state) := by
  obtain ⟨h1, h2, -⟩ := writeChannels_append
    (s.cfg.amberCh.map fun ch => (ch, (BitVec.ofNat 8 (mixAmber s.cfg b.toNat m.toNat) : Byte)))
    (s.cfg.whiteCh.map fun ch => (ch, (BitVec.ofNat 8 (mixWhite s.cfg b.toNat m.toNat) : Byte))) s
  simp only [applyMix, hm, hs, if_false, if_true, setGroup_eq, mixDuties, h1, h2, writeChannels_cfg]

end Sys2Proof.Machine
end

