-- ==== Sys2Proof/Laws/PerInstr.lean ====
section
/-! SUPPORT. Per-instruction laws: decoding the word of an operation gives the operation back, with every operand at
every value its field admits (30_encoding.md R81, R82, R84). -/

namespace Sys2Proof.Laws

/-- Decoding the event word of `i` gives `i`. -/
def DecodeEncode.Statement (i : Instr) : Prop := decode (encode i) = .ok i

/-- Concatenation as a number. -/
theorem append_toNat {m n : Nat} (x : BitVec m) (y : BitVec n) : (x ++ y).toNat = x.toNat * 2 ^ n + y.toNat := by
  rw [BitVec.toNat_append, ← Nat.shiftLeft_add_eq_or_of_lt y.isLt, Nat.shiftLeft_eq]

/-! ## The six formats as numbers -/

theorem wordB_toNat (op x : Byte) : (wordB op x).toNat = op.toNat * 2 ^ 24 + x.toNat := by
  show (op ++ 0#16 ++ x).toNat = _
  rw [append_toNat, append_toNat]; simp; omega

theorem wordH_toNat (op : Byte) (x : Half) : (wordH op x).toNat = op.toNat * 2 ^ 24 + x.toNat := by
  show (op ++ 0#8 ++ x).toNat = _
  rw [append_toNat, append_toNat]; simp; omega

theorem wordP_toNat (op a d : Byte) : (wordP op a d).toNat = op.toNat * 2 ^ 24 + (a.toNat * 2 ^ 8 + d.toNat) := by
  show (op ++ 0#8 ++ a ++ d).toNat = _
  rw [append_toNat, append_toNat, append_toNat]; simp; omega

theorem wordL_toNat (op b : Byte) (m : Half) : (wordL op b m).toNat = op.toNat * 2 ^ 24 + (b.toNat * 2 ^ 16 + m.toNat) := by
  show (op ++ b ++ m).toNat = _
  rw [append_toNat, append_toNat]; omega

theorem wordW_toNat (op : Byte) (f : Turn) : (wordW op f).toNat = op.toNat * 2 ^ 24 + f.toNat := by
  show (op ++ f).toNat = _
  rw [append_toNat]

/-! ## The operand fields as numbers -/

theorem opField_toNat (w : Word) : (opField w).toNat = w.toNat / 2 ^ 24 := by
  have := w.isLt
  simp [opField, Nat.shiftRight_eq_div_pow]; omega

theorem imm8Field_toNat (w : Word) : (imm8Field w).toNat = w.toNat % 2 ^ 8 := by simp [imm8Field]
theorem imm16Field_toNat (w : Word) : (imm16Field w).toNat = w.toNat % 2 ^ 16 := by simp [imm16Field]
theorem aField_toNat (w : Word) : (aField w).toNat = w.toNat / 2 ^ 8 % 2 ^ 8 := by
  simp [aField, Nat.shiftRight_eq_div_pow]
theorem dField_toNat (w : Word) : (dField w).toNat = w.toNat % 2 ^ 8 := by simp [dField]
theorem bField_toNat (w : Word) : (bField w).toNat = w.toNat / 2 ^ 16 % 2 ^ 8 := by
  simp [bField, Nat.shiftRight_eq_div_pow]
theorem mField_toNat (w : Word) : (mField w).toNat = w.toNat % 2 ^ 16 := by simp [mField]
theorem fField_toNat (w : Word) : (fField w).toNat = w.toNat % 2 ^ 24 := by simp [fField]

/-! ## The fixed bits of each format -/

theorem fixed_B (op x : Byte) : wordB op x &&& Format.B.mask = op ++ 0#24 := by
  apply BitVec.eq_of_getLsbD_eq
  intro i hi
  rw [BitVec.getLsbD_and, BitVec.getLsbD_append]
  simp only [wordB, Format.mask, BitVec.getLsbD_append]
  interval_cases i <;> simp

theorem fixed_H (op : Byte) (x : Half) : wordH op x &&& Format.H.mask = op ++ 0#24 := by
  apply BitVec.eq_of_getLsbD_eq
  intro i hi
  rw [BitVec.getLsbD_and, BitVec.getLsbD_append]
  simp only [wordH, Format.mask, BitVec.getLsbD_append]
  interval_cases i <;> simp

theorem fixed_P (op a d : Byte) : wordP op a d &&& Format.P.mask = op ++ 0#24 := by
  apply BitVec.eq_of_getLsbD_eq
  intro i hi
  rw [BitVec.getLsbD_and, BitVec.getLsbD_append]
  simp only [wordP, Format.mask, BitVec.getLsbD_append]
  interval_cases i <;> simp

theorem fixed_L (op b : Byte) (m : Half) : wordL op b m &&& Format.L.mask = op ++ 0#24 := by
  apply BitVec.eq_of_getLsbD_eq
  intro i hi
  rw [BitVec.getLsbD_and, BitVec.getLsbD_append]
  simp only [wordL, Format.mask, BitVec.getLsbD_append]
  interval_cases i <;> simp

theorem fixed_W (op : Byte) (f : Turn) : wordW op f &&& Format.W.mask = op ++ 0#24 := by
  apply BitVec.eq_of_getLsbD_eq
  intro i hi
  rw [BitVec.getLsbD_and, BitVec.getLsbD_append]
  simp only [wordW, Format.mask, BitVec.getLsbD_append]
  interval_cases i <;> simp

/-- What decoding answers when the opcode's row and the fixed bits are known. -/
theorem decode_of_row {w : Word} {op : Byte} {fmt : Format} {i : Instr} (ho : opField w = op)
    (hr : opcodeRow op.toNat w = some (fmt, i)) (hm : w &&& fmt.mask = op ++ 0#24) : decode w = .ok i := by
  unfold decode
  rw [ho, hr]
  simp [hm]

/-- The opcode of a word of each format. -/
theorem opField_eq {w : Word} {op : Byte} {rest : Nat} (h : w.toNat = op.toNat * 2 ^ 24 + rest) (hr : rest < 2 ^ 24) :
    opField w = op := by
  apply BitVec.eq_of_toNat_eq
  rw [opField_toNat, h]; omega

/-- The operand fields of a word of each format. -/
theorem imm8Field_wordB (op x : Byte) : imm8Field (wordB op x) = x := by
  apply BitVec.eq_of_toNat_eq
  rw [imm8Field_toNat, wordB_toNat]; have := x.isLt; omega

theorem imm16Field_wordH (op : Byte) (x : Half) : imm16Field (wordH op x) = x := by
  apply BitVec.eq_of_toNat_eq
  rw [imm16Field_toNat, wordH_toNat]; have := x.isLt; omega

theorem aField_wordP (op a d : Byte) : aField (wordP op a d) = a := by
  apply BitVec.eq_of_toNat_eq
  rw [aField_toNat, wordP_toNat]; have := a.isLt; have := d.isLt; omega

theorem dField_wordP (op a d : Byte) : dField (wordP op a d) = d := by
  apply BitVec.eq_of_toNat_eq
  rw [dField_toNat, wordP_toNat]; have := a.isLt; have := d.isLt; omega

theorem bField_wordL (op b : Byte) (m : Half) : bField (wordL op b m) = b := by
  apply BitVec.eq_of_toNat_eq
  rw [bField_toNat, wordL_toNat]; have := b.isLt; have := m.isLt; omega

theorem mField_wordL (op b : Byte) (m : Half) : mField (wordL op b m) = m := by
  apply BitVec.eq_of_toNat_eq
  rw [mField_toNat, wordL_toNat]; have := b.isLt; have := m.isLt; omega

theorem fField_wordW (op : Byte) (f : Turn) : fField (wordW op f) = f := by
  apply BitVec.eq_of_toNat_eq
  rw [fField_toNat, wordW_toNat]; have := f.isLt; omega

/-! ## One lemma per operation -/

theorem DecodeEncode.nop : DecodeEncode.Statement .nop := rfl

theorem DecodeEncode.ptCalrd : DecodeEncode.Statement .ptCalrd := rfl

theorem DecodeEncode.ptCalvfy : DecodeEncode.Statement .ptCalvfy := rfl

theorem DecodeEncode.ptInit : DecodeEncode.Statement .ptInit := rfl

theorem DecodeEncode.ptTemp : DecodeEncode.Statement .ptTemp := rfl

theorem DecodeEncode.rhRead : DecodeEncode.Statement .rhRead := rfl

theorem DecodeEncode.slInit : DecodeEncode.Statement .slInit := rfl

theorem DecodeEncode.slTemp : DecodeEncode.Statement .slTemp := rfl

theorem DecodeEncode.pwmInit : DecodeEncode.Statement .pwmInit := rfl

theorem DecodeEncode.mixRecall : DecodeEncode.Statement .mixRecall := rfl

theorem DecodeEncode.animBoot : DecodeEncode.Statement .animBoot := rfl

theorem DecodeEncode.animBren : DecodeEncode.Statement .animBren := rfl

theorem DecodeEncode.animStop : DecodeEncode.Statement .animStop := rfl

theorem DecodeEncode.animBlink : DecodeEncode.Statement .animBlink := rfl

theorem DecodeEncode.animTick : DecodeEncode.Statement .animTick := rfl

theorem DecodeEncode.animStep : DecodeEncode.Statement .animStep := rfl

theorem DecodeEncode.rdreg (r : Byte) : DecodeEncode.Statement (.rdreg r) := by
  refine decode_of_row (op := 0x01) (fmt := .B) (opField_eq (wordB_toNat _ _) (by omega)) ?_ (fixed_B _ _)
  show some (Format.B, Instr.rdreg (imm8Field (wordB 0x01 r))) = _
  rw [imm8Field_wordB]

theorem DecodeEncode.pwmSetch (a : Byte) (d : Byte) : DecodeEncode.Statement (.pwmSetch a d) := by
  refine decode_of_row (op := 0x21) (fmt := .P) (opField_eq (wordP_toNat _ _ _) (by omega)) ?_ (fixed_P _ _ _)
  show some (Format.P, Instr.pwmSetch (aField (wordP 0x21 a d)) (dField (wordP 0x21 a d))) = _
  rw [aField_wordP, dField_wordP]

theorem DecodeEncode.pwmSetgrp (a : Byte) (d : Byte) : DecodeEncode.Statement (.pwmSetgrp a d) := by
  refine decode_of_row (op := 0x22) (fmt := .P) (opField_eq (wordP_toNat _ _ _) (by omega)) ?_ (fixed_P _ _ _)
  show some (Format.P, Instr.pwmSetgrp (aField (wordP 0x22 a d)) (dField (wordP 0x22 a d))) = _
  rw [aField_wordP, dField_wordP]

theorem DecodeEncode.pwmPct2duty (p : Byte) : DecodeEncode.Statement (.pwmPct2duty p) := by
  refine decode_of_row (op := 0x23) (fmt := .B) (opField_eq (wordB_toNat _ _) (by omega)) ?_ (fixed_B _ _)
  show some (Format.B, Instr.pwmPct2duty (imm8Field (wordB 0x23 p))) = _
  rw [imm8Field_wordB]

theorem DecodeEncode.lampLoad (b : Byte) (m : Half) : DecodeEncode.Statement (.lampLoad b m) := by
  refine decode_of_row (op := 0x30) (fmt := .L) (opField_eq (wordL_toNat _ _ _) (by omega)) ?_ (fixed_L _ _ _)
  show some (Format.L, Instr.lampLoad (bField (wordL 0x30 b m)) (mField (wordL 0x30 b m))) = _
  rw [bField_wordL, mField_wordL]

theorem DecodeEncode.lampSetb (b : Byte) : DecodeEncode.Statement (.lampSetb b) := by
  refine decode_of_row (op := 0x31) (fmt := .B) (opField_eq (wordB_toNat _ _) (by omega)) ?_ (fixed_B _ _)
  show some (Format.B, Instr.lampSetb (imm8Field (wordB 0x31 b))) = _
  rw [imm8Field_wordB]

theorem DecodeEncode.lampSetct (m : Half) : DecodeEncode.Statement (.lampSetct m) := by
  refine decode_of_row (op := 0x32) (fmt := .H) (opField_eq (wordH_toNat _ _) (by omega)) ?_ (fixed_H _ _)
  show some (Format.H, Instr.lampSetct (imm16Field (wordH 0x32 m))) = _
  rw [imm16Field_wordH]

theorem DecodeEncode.mixApply (b : Byte) (m : Half) : DecodeEncode.Statement (.mixApply b m) := by
  refine decode_of_row (op := 0x33) (fmt := .L) (opField_eq (wordL_toNat _ _ _) (by omega)) ?_ (fixed_L _ _ _)
  show some (Format.L, Instr.mixApply (bField (wordL 0x33 b m)) (mField (wordL 0x33 b m))) = _
  rw [bField_wordL, mField_wordL]

theorem DecodeEncode.animBrinit (f : Turn) : DecodeEncode.Statement (.animBrinit f) := by
  refine decode_of_row (op := 0x41) (fmt := .W) (opField_eq (wordW_toNat _ _) (by omega)) ?_ (fixed_W _ _)
  show some (Format.W, Instr.animBrinit (fField (wordW 0x41 f))) = _
  rw [fField_wordW]

end Sys2Proof.Laws
end

