-- ==== Sys2Proof/Tests/Slice0.lean ====
section
/-! SUPPORT. The model's own tests: ill-formed configurations refused, each operation's word decoded, vectors of
95_test_vectors.md (named in each comment), and a witness for the hypotheses of each statement. -/

namespace Sys2Proof.Tests

open Sys2Proof.Machine

/-! ## Ill-formed configurations, one for each check of 00_scope.md R10 -/

/-- The reference configuration with TRAIL_SPIN (V43-7). -/
def trailSpin : Params := { Config.refcfg with bootVariant := .trailSpin }

/-- The 3-channel groups of V41-7. -/
def groups3 : Params := { Config.refcfg with groupSize := 3, amberCh := [0, 1, 2], whiteCh := [4, 5, 6] }

theorem test_wf_accepts : Config.refcfg.wf = true ∧ trailSpin.wf = true ∧ groups3.wf = true := by decide
theorem test_wf_group_size : Params.wf { Config.refcfg with groupSize := 3 } = false := by decide
theorem test_wf_channel_range : Params.wf { Config.refcfg with amberCh := [0, 1, 2, 8] } = false := by decide
theorem test_wf_channel_twice : Params.wf { Config.refcfg with whiteCh := [3, 5, 6, 7] } = false := by decide
theorem test_wf_kelvin : Params.wf { Config.refcfg with kMax := 2200 } = false := by decide
theorem test_wf_mireds : Params.wf { Config.refcfg with defaultMireds := 0 } = false := by decide
theorem test_wf_ramp_step : Params.wf { Config.refcfg with rampStepPct := 0 } = false := by decide
theorem test_wf_percents : Params.wf { Config.refcfg with blinkOnPct := 101 } = false := by decide
theorem test_wf_frame_count : Params.wf { Config.refcfg with blinkCount := 32768 } = false := by decide
theorem test_wf_prom_count : Params.wf { Config.refcfg with promReadCount := 6 } = false := by decide
theorem test_wf_prom_codes : Params.wf { Config.refcfg with promCmdStride := 14 } = false := by decide
theorem test_wf_addresses : Params.wf { Config.refcfg with slAddr := 0x40 } = false := by decide
theorem test_wf_duty_range : Params.wf { Config.refcfg with regPwmBase := 249 } = false := by decide
theorem test_wf_registers : Params.wf { Config.refcfg with regLedout0 := 0x09 } = false := by decide

/-- 60_exceptions.md R226: what each source can send. -/
theorem test_input_wf :
    Input.wf (.event .host 0xFFFFFFFF) = true ∧ Input.wf (.event .tick 0x45000000) = true ∧
    Input.wf (.event .tick 0x46000000) = false ∧ Input.wf (.event .sequencer 0x45000000) = false := by decide

/-! ## Decoding: each operation's word written out from 30_encoding.md R81 and R84 -/

theorem test_decode_system :
    decode 0b00000000_000000000000000000000000#32 = .ok .nop ∧
    decode 0b00000001_0000000000000000_00001101#32 = .ok (.rdreg 13) := by decide

theorem test_decode_calibration :
    decode 0b00010000_000000000000000000000000#32 = .ok .ptCalrd ∧
    decode 0b00010001_000000000000000000000000#32 = .ok .ptCalvfy ∧
    decode 0b00010010_000000000000000000000000#32 = .ok .ptInit ∧
    decode 0b00010011_000000000000000000000000#32 = .ok .ptTemp ∧
    decode 0b00010100_000000000000000000000000#32 = .ok .rhRead ∧
    decode 0b00010101_000000000000000000000000#32 = .ok .slInit ∧
    decode 0b00010110_000000000000000000000000#32 = .ok .slTemp := by decide

theorem test_decode_driver :
    decode 0b00100000_000000000000000000000000#32 = .ok .pwmInit ∧
    decode 0b00100001_00000000_00000011_11111111#32 = .ok (.pwmSetch 3 255) ∧
    decode 0b00100010_00000000_00000001_10000000#32 = .ok (.pwmSetgrp 1 128) ∧
    decode 0b00100011_0000000000000000_01100100#32 = .ok (.pwmPct2duty 100) := by decide

theorem test_decode_mixer :
    decode 0b00110000_11001000_0000000100101100#32 = .ok (.lampLoad 200 300) ∧
    decode 0b00110001_0000000000000000_11111111#32 = .ok (.lampSetb 255) ∧
    decode 0b00110010_00000000_0000000111000110#32 = .ok (.lampSetct 454) ∧
    decode 0b00110011_10000000_0000111110100000#32 = .ok (.mixApply 128 4000) ∧
    decode 0b00110100_000000000000000000000000#32 = .ok .mixRecall := by decide

theorem test_decode_animation :
    decode 0b01000000_000000000000000000000000#32 = .ok .animBoot ∧
    decode 0b01000001_000000101000111101011100#32 = .ok (.animBrinit 167772) ∧
    decode 0b01000010_000000000000000000000000#32 = .ok .animBren ∧
    decode 0b01000011_000000000000000000000000#32 = .ok .animStop ∧
    decode 0b01000100_000000000000000000000000#32 = .ok .animBlink ∧
    decode 0b01000101_000000000000000000000000#32 = .ok .animTick ∧
    decode 0b01000110_000000000000000000000000#32 = .ok .animStep := by decide

/-- The first and last opcodes of each reserved range, and a must-be-zero bit of each format (R81, R83; V30-1). -/
theorem test_decode_refuses :
    decode 0x02000000#32 = .error (.reservedOpcode 0x02) ∧ decode 0x0F000000#32 = .error (.reservedOpcode 0x0F) ∧
    decode 0x17000000#32 = .error (.reservedOpcode 0x17) ∧ decode 0x1F000000#32 = .error (.reservedOpcode 0x1F) ∧
    decode 0x24000000#32 = .error (.reservedOpcode 0x24) ∧ decode 0x2F000000#32 = .error (.reservedOpcode 0x2F) ∧
    decode 0x35000000#32 = .error (.reservedOpcode 0x35) ∧ decode 0x3F000000#32 = .error (.reservedOpcode 0x3F) ∧
    decode 0x47000000#32 = .error (.reservedOpcode 0x47) ∧ decode 0xFFFFFFFF#32 = .error (.reservedOpcode 0xFF) ∧
    decode 0x00000100#32 = .error (.mustBeZero 0x00) ∧ decode 0x01000100#32 = .error (.mustBeZero 0x01) ∧
    decode 0x32010000#32 = .error (.mustBeZero 0x32) ∧ decode 0x21010000#32 = .error (.mustBeZero 0x21) := by decide

theorem test_decode_table_word :
    decodeTableWord 32 0x22000180 = some (.pwmSetgrp 1 128) ∧ decodeTableWord 32 0x02000000 = none := by decide

/-- 30_encoding.md R87. -/
theorem test_assembly :
    assembly (.pwmSetch 3 255) = "PWM.SETCH 3, 255" ∧ assembly .animStep = "ANIM.STEP" := by decide +kernel

/-! ## Vectors -/

/-- The reference machine after reset with an oracle script. -/
def scripted (answers : List BusAnswer) : State := { State.reset with oracle := answers }

/-- The state an operation leaves, or the state itself where it does not complete. -/
def after (i : Instr) (s : State) : State :=
  match exec i s with
  | .next t => t
  | _ => s

/-- The response an operation ends with. -/
def answer (i : Instr) (s : State) : Option Response :=
  match exec i s with
  | .next t => t.responses.getLast?.map Delivery.response
  | _ => none

/-- The duties as 95_test_vectors.md writes them. -/
def duties (s : State) : List (Option Byte) := Config.allCh.map s.duty

/-- `n` successful answers that receive nothing. -/
def oks (n : Nat) : List BusAnswer := List.replicate n (.ok [])

/-- PROM-B of 95_test_vectors.md section 2.1. -/
def promB : List Half := [0x3132, 0x3334, 0x3536, 0x3738, 0x3940, 0x82B8, 0x6E98, 0x4502]

/-- The reference machine with PROM-B loaded and verified. -/
def calibrated (answers : List BusAnswer) : State :=
  { scripted answers with cal := some (Coeffs.ofWords promB), calValid := true }

/-- V30-1. -/
theorem test_nop : answer .nop State.reset = some ⟨.ok, 0⟩ := by decide
/-- V30-3: RDREG LAMP and RDREG CAL_0 after reset. -/
theorem test_rdreg_lamp : answer (.rdreg 1) State.reset = some ⟨.ok, 0x00800116⟩ := by decide
theorem test_rdreg_cal : answer (.rdreg 8) State.reset = some ⟨.calibrationError, 0⟩ ∧
    answer (.rdreg 0x0D) (calibrated []) = some ⟨.ok, 0x82B8⟩ := by decide
/-- V30-3: STATUS after PT.INIT, PWM.INIT and ANIM.BLINK together. -/
theorem test_rdreg_status :
    answer (.rdreg 0) { calibrated [] with pwmEn := true, animState := .confirmationBlink } = some ⟨.ok, 0x1F⟩ := by
  decide
/-- V40-3 step 4: the response and the first and last transactions of PT.CALRD. -/
theorem test_ptCalrd :
    answer .ptCalrd (scripted (promScript promB)) = some ⟨.ok, 0⟩ ∧
    (after .ptCalrd (scripted (promScript promB))).history.take 2 =
      [⟨.W, 0x77, some 0xA0, [], true⟩, ⟨.R, 0x77, none, [0x31, 0x32], true⟩] ∧
    (after .ptCalrd (scripted (promScript promB))).history.drop 14 =
      [⟨.W, 0x77, some 0xAE, [], true⟩, ⟨.R, 0x77, none, [0x45, 0x02], true⟩] := by decide +kernel
/-- V40-5: a failed re-read keeps the old coefficients. -/
theorem test_ptCalrd_keeps :
    answer .ptCalrd (calibrated [.ok [], .ok [0xDE, 0xAD], .ok [], .ok [0xBE, 0xEF], .ok [], .fail]) =
      some ⟨.busError, 0⟩ ∧
    (after .ptCalrd (calibrated [.ok [], .ok [0xDE, 0xAD], .ok [], .ok [0xBE, 0xEF], .ok [], .fail])).cal =
      some (Coeffs.ofWords promB) := by decide +kernel
/-- V40-1 and S2: the comparison on PROM-B and with a checksum bit flipped. -/
theorem test_ptCalvfy :
    answer .ptCalvfy (calibrated []) = some ⟨.ok, 1⟩ ∧
    answer .ptCalvfy { scripted [] with cal := some (flipBit (Coeffs.ofWords promB) 7 0) } = some ⟨.ok, 0⟩ := by
  decide +kernel
/-- V40-1: crc4 of the rule's example and of the 7-word variant. -/
theorem test_crc4 :
    crc4 ⟨0x3132, 0x3334, 0x3536, 0x3738, 0x3940, 0x4142, 0x4344, 0x4546⟩ = 0xB ∧
    crc4 (Coeffs.ofWords (promB.take 7)) = 0xA := by decide +kernel
/-- P1 step 1 and V40-6: PT.INIT with a match and with a mismatch. -/
theorem test_ptInit : answer .ptInit (scripted (promScript promB)) = some ⟨.ok, 1⟩ := by decide +kernel
theorem test_ptInit_mismatch :
    answer .ptInit (scripted (promScript (promB.set 7 0x4543))) = some ⟨.calibrationError, 0⟩ ∧
    (after .ptInit (scripted (promScript (promB.set 7 0x4543)))).calLoaded = true := by decide +kernel
/-- V40-3 step 11 and V40-8: a positive and a negative dT. -/
theorem test_ptTemp :
    answer .ptTemp (calibrated [.ok [], .ok [0x82, 0xC1, 0x3E]]) = some ⟨.ok, 0x7D7⟩ ∧
    answer .ptTemp (calibrated [.ok [], .ok [0x82, 0xB4, 0x18]]) = some ⟨.ok, 0x7CD⟩ := by decide +kernel
/-- V40-2: the two extremes. -/
theorem test_convTemp : convTemp 0 65535 65535 = -129068 ∧ convTemp 16777215 0 65535 = 133069 := by decide +kernel
/-- V40-9, V40-10. -/
theorem test_rhRead : answer .rhRead (scripted [.ok [], .ok [0x7C, 0x82, 0x1F]]) = some ⟨.ok, 0x0036CA80⟩ := by
  decide +kernel
theorem test_rhRead_fails : (after .rhRead (scripted [.ok [], .fail])).history =
    [⟨.W, 0x40, some 0xF5, [], true⟩, ⟨.R, 0x40, none, [], false⟩] := by decide
/-- V40-11. -/
theorem test_slInit : answer .slInit (scripted [.ok [0x80], .ok []]) = some ⟨.ok, 1⟩ ∧
    (after .slInit (scripted [.ok [0x80], .ok []])).history =
      [⟨.WR, 0x4D, some 0x01, [0x80], true⟩, ⟨.W, 0x4D, some 0x01, [0x00], true⟩] := by decide
theorem test_slInit_awake : answer .slInit (scripted [.ok [0x7F]]) = some ⟨.ok, 0⟩ := by decide
/-- V40-12. -/
theorem test_slTemp : answer .slTemp (scripted [.ok [0xE7]]) = some ⟨.ok, 0xFFFFFFE7⟩ := by decide
/-- V41-1 and V41-2 (k = 3). -/
theorem test_pwmInit : duties (after .pwmInit (scripted (oks 12))) = List.replicate 8 (some 0) ∧
    Memory.read (after .pwmInit (scripted (oks 12))).pwmdev 0x0D = some 0xAA := by decide +kernel
theorem test_pwmInit_stops :
    (after .pwmInit (scripted (oks 3 ++ [.fail]))).pwmdev = [(0x00, 0x00), (0x01, 0x04), (0x0C, 0xAA)] ∧
    (after .pwmInit (scripted (oks 3 ++ [.fail]))).pwmEn = true := by decide +kernel
/-- V41-3, V41-4. -/
theorem test_pwmSetch : duties (after (.pwmSetch 7 255) (scripted (oks 1))) =
    List.replicate 7 none ++ [some 255] := by decide
theorem test_pwmSetch_out : answer (.pwmSetch 8 0) (scripted (oks 1)) = some ⟨.invalidArgument, 0⟩ := by decide
/-- V41-6. -/
theorem test_pwmSetgrp :
    answer (.pwmSetgrp 1 128) (scripted [.ok [], .fail, .ok [], .ok []]) = some ⟨.busError, 3⟩ ∧
    duties (after (.pwmSetgrp 1 128) (scripted [.ok [], .fail, .ok [], .ok []])) =
      [none, none, none, none, some 128, none, some 128, some 128] := by decide +kernel
theorem test_pwmSetgrp_all : answer (.pwmSetgrp 2 0) (scripted (oks 8)) = some ⟨.ok, 8⟩ := by decide +kernel
/-- V41-8. -/
theorem test_pwmPct2duty : answer (.pwmPct2duty 10) State.reset = some ⟨.ok, 26⟩ ∧
    answer (.pwmPct2duty 101) State.reset = some ⟨.invalidArgument, 0⟩ := by decide
/-- V42-2 steps 5 and 6. -/
theorem test_lampLoad : answer (.rdreg 1) (after (.lampLoad 255 250) State.reset) = some ⟨.ok, 0x00FF00FA⟩ := by
  decide
/-- V42-4: the command is kept, the duties applied best effort. -/
theorem test_lampSetb :
    answer (.lampSetb 255) (scripted (oks 1 ++ [.fail] ++ oks 4 ++ [.fail] ++ oks 1)) =
      some ⟨.busError, 0x0001807F⟩ ∧
    duties (after (.lampSetb 255) (scripted (oks 1 ++ [.fail] ++ oks 4 ++ [.fail] ++ oks 1))) =
      [some 128, none, some 128, some 128, some 127, some 127, none, some 127] ∧
    (after (.lampSetb 255) (scripted (oks 1 ++ [.fail] ++ oks 4 ++ [.fail] ++ oks 1))).lampBrightness = 255 := by
  decide +kernel
/-- V42-2 step 3. -/
theorem test_lampSetct :
    answer (.lampSetct 200) { scripted (oks 8) with lampBrightness := 255 } = some ⟨.ok, 0x000100FF⟩ := by
  decide +kernel
/-- V42-1: both halves round up; V41-7: three-channel groups. -/
theorem test_mixApply : answer (.mixApply 56 201) (scripted (oks 8)) = some ⟨.ok, 0x00010138⟩ := by decide +kernel
theorem test_mixApply_groups3 :
    duties (after (.mixApply 255 278) { State.resetWith groups3 with oracle := oks 6 }) =
      [some 128, some 128, some 128, none, some 127, some 127, some 127, none] := by decide +kernel
/-- V42-3 step 5: the gate. -/
theorem test_mixRecall : answer .mixRecall { scripted [] with animState := .breathing, lampBrightness := 255 } =
    some ⟨.ok, 0x0000807F⟩ := by decide
/-- V43-8: a transition in the middle of a sequence. -/
theorem test_animBoot : (after .animBoot { scripted [] with animState := .confirmationBlink, seqIdx := 1 }).seqIdx = 0 := by
  decide
/-- V43-9. -/
theorem test_animBrinit :
    (after (.animBrinit 0x123) { scripted [] with animState := .bootSequence, seqIdx := 2, phase := 5 }).seqIdx = 2 ∧
    (after (.animBrinit 0x123) { scripted [] with animState := .bootSequence, seqIdx := 2, phase := 5 }).phase = 0 := by
  decide
/-- V30-3: STATUS after ANIM.BREN. -/
theorem test_animBren : answer (.rdreg 0) (after .animBren State.reset) = some ⟨.ok, 4⟩ := by decide
/-- S6: the blink leaves breathing disabled. -/
theorem test_animBlink : (after .animBlink (after .animBren State.reset)).breathingEnabled = false := by decide
/-- V43-3 (e): stopping keeps the phase. -/
theorem test_animStop :
    (after .animStop { scripted [] with animState := .breathing, phase := 0x400000 }).phase = 0x400000 := by decide
/-- V43-4: a failed write does not stall the phase. -/
theorem test_animTick :
    answer .animTick { scripted (oks 2 ++ [.fail] ++ oks 5) with animState := .breathing, freq := 0x400000 } =
      some ⟨.busError, 0x000100FF⟩ ∧
    (after .animTick { scripted (oks 2 ++ [.fail] ++ oks 5) with animState := .breathing, freq := 0x400000 }).phase =
      0x400000 := by decide +kernel
/-- V43-3 (b): the wrap. -/
theorem test_animTick_wraps :
    (after .animTick { scripted (oks 8) with animState := .breathing, phase := 0xFFFFFF, freq := 2 }).phase = 1 := by
  decide +kernel
/-- V43-6: the last frame of the blink. -/
theorem test_animStep :
    answer .animStep { scripted (oks 8) with animState := .confirmationBlink, seqIdx := 6 } =
      some ⟨.ok, 0x00030006⟩ ∧
    (after .animStep { scripted (oks 8) with animState := .confirmationBlink, seqIdx := 6 }).animState = .idle := by
  decide +kernel
/-- V43-7: frame 0 of the trailing spin. -/
theorem test_animStep_spin :
    duties (after .animStep { State.resetWith trailSpin with animState := .bootSequence, oracle := oks 8 }) =
      [some 255, some 0, some 0, some 0, some 0, some 64, some 128, some 191] := by decide +kernel

/-! ## Witnesses: for each statement with hypotheses, concrete values that meet them, one for each clause, at boundary
values of the ranges -/

/-- A host word waiting. -/
def waiting (w : Word) : State := { State.reset with input := [.event .host w] }

/-- The reference machine in a state of the animation machine, with a script. -/
def animating (a : AnimState) (answers : List BusAnswer) : State := { scripted answers with animState := a }

theorem inv_reset : Inv State.reset := by decide

theorem witness_LegalWordsAreTableRows :
    (∀ op ∈ [0x02, 0x0F, 0x17, 0x1F, 0x24, 0x2F, 0x35, 0x3F, 0x47, 0xFF],
      (0x02 ≤ op ∧ op ≤ 0x0F) ∨ (0x17 ≤ op ∧ op ≤ 0x1F) ∨ (0x24 ≤ op ∧ op ≤ 0x2F) ∨ (0x35 ≤ op ∧ op ≤ 0x3F) ∨
        0x47 ≤ op) ∧
    (waiting 0x100).cfg.wf = true ∧ (waiting 0x100).input = .event .host 0x100 :: [] ∧
      ∀ i, decode 0x100 ≠ .ok i := by
  refine ⟨by decide, by decide, rfl, fun i h => ?_⟩
  rw [show decode 0x100 = .error (.mustBeZero 0x00) by decide] at h
  cases h

theorem witness_StepPerformsDecodedOperation :
    (waiting 0x42000000).cfg.wf = true ∧ (waiting 0x42000000).input = .event .host 0x42000000 :: [] ∧
    decode 0x42000000 = .ok .animBren := ⟨by decide, rfl, by decide⟩

theorem witness_StepAppliesReset :
    (State.cfg { State.reset with input := [.reset] }).wf = true ∧
    State.input { State.reset with input := [.reset] } = .reset :: [] := ⟨by decide, rfl⟩

theorem witness_StepWaitsOrRefuses :
    State.reset.cfg.wf = true ∧ State.reset.input = [] ∧
    (State.resetWith { Config.refcfg with kMax := 0 }).cfg.wf = false := ⟨by decide, rfl, by decide⟩

theorem witness_ConfigurationCheck : exec .nop State.reset = .next (after .nop State.reset) := rfl

theorem witness_InvariantHoldsAtReset : Config.refcfg.wf = true := by decide

theorem witness_StepKeepsInvariant :
    Inv (waiting 0x44000000) ∧
    step (waiting 0x44000000) = .next (after .animBlink (accept .host [] (waiting 0x44000000))) :=
  ⟨by decide, rfl⟩

theorem witness_EveryWordIsAnswered :
    Inv (waiting 0x12000000) ∧ (waiting 0x12000000).input = .event .host 0x12000000 :: [] := ⟨by decide, rfl⟩

theorem witness_OneResponsePerOperation :
    exec .slTemp (scripted [.fail]) = .next (after .slTemp (scripted [.fail])) := rfl

theorem witness_DeviceHoldsLastByteStored :
    (scripted (oks 1)).cfg.wf = true ∧
    exec (.pwmSetch 7 255) (scripted (oks 1)) = .next (after (.pwmSetch 7 255) (scripted (oks 1))) := ⟨by decide, rfl⟩

theorem witness_HistoryDeterminesDevice :
    (∀ r, Memory.read (waiting 0).pwmdev r = lastStored (waiting 0).cfg r (waiting 0).history) ∧
    step (waiting 0) = .next (after .nop (accept .host [] (waiting 0))) := ⟨fun _ => rfl, rfl⟩

theorem witness_OnlyOwnerDrivesPwm :
    State.reset.cfg.wf = true ∧ exec .animTick State.reset = .next (after .animTick State.reset) ∧
    ¬DirectOp .animTick ∧ ¬Owns State.reset.animState .animTick :=
  ⟨by decide, rfl, fun h => (by cases h), fun h => (by cases (show Owns .idle .animTick from h))⟩

theorem witness_OnlyNamedOperationsWriteState :
    exec .animBren State.reset = .next (after .animBren State.reset) ∧
    (after .animBren State.reset).animState ≠ State.reset.animState := ⟨rfl, by decide⟩

theorem witness_HistoryIsNeverRead :
    exec .slTemp (scripted [.fail]) = .next (after .slTemp (scripted [.fail])) ∧
    (after .slTemp (scripted [.fail])).history =
      (scripted [.fail]).history ++ [⟨.WR, 0x4D, some 0x00, [], false⟩] := ⟨rfl, by decide⟩

theorem witness_SourceDoesNotMatter :
    exec .nop State.reset = .next (after .nop State.reset) ∧
    (after .nop State.reset).responses = State.reset.responses ++ [⟨State.reset.requester, ⟨.ok, 0⟩⟩] := ⟨rfl, rfl⟩

theorem witness_StatusTable :
    Inv (scripted [.fail]) ∧ exec .slTemp (scripted [.fail]) = .next (after .slTemp (scripted [.fail])) ∧
    (after .slTemp (scripted [.fail])).responses = answeredWith (scripted [.fail]) .busError 0 ∧
    (after .slTemp (scripted [.fail])).history =
      (scripted [.fail]).history ++ [⟨.WR, 0x4D, some 0x00, [], false⟩] ∧
    (waiting 0x47000000).cfg.wf = true ∧ (waiting 0x47000000).input = .event .host 0x47000000 :: [] ∧
    ∀ i, decode 0x47000000 ≠ .ok i := by
  refine ⟨by decide, rfl, by decide, by decide, by decide, rfl, fun i h => ?_⟩
  rw [show decode 0x47000000 = .error (.reservedOpcode 0x47) by decide] at h
  cases h

theorem witness_RefusalsChangeNothing :
    Inv State.reset ∧ Inv (scripted [.fail]) ∧
    exec (.rdreg 5) State.reset = .next (after (.rdreg 5) State.reset) ∧
    (after (.rdreg 5) State.reset).responses = answeredWith State.reset .invalidArgument 0 ∧
    exec .ptTemp State.reset = .next (after .ptTemp State.reset) ∧
    (after .ptTemp State.reset).responses = answeredWith State.reset .calibrationError 0 ∧
    exec .ptInit (scripted [.fail]) = .next (after .ptInit (scripted [.fail])) ∧
    (after .ptInit (scripted [.fail])).responses = answeredWith (scripted [.fail]) .busError 0 :=
  ⟨by decide, by decide, rfl, by decide, rfl, by decide, rfl, by decide +kernel⟩

theorem witness_HostSeesItsResponses : Source.tick ≠ .host ∧ Source.sequencer ≠ .host := by decide

theorem witness_RdregReadsTheMap :
    (∀ r ∈ [(0x08 : Byte), 0x0F], 0x08 ≤ r.toNat ∧ r.toNat ≤ 0x0F) ∧ State.reset.cal = none ∧
    (calibrated []).cal = some (Coeffs.ofWords promB) ∧
    ∀ r ∈ [(0x05 : Byte), 0x07, 0x10, 0xFF], (0x05 ≤ r.toNat ∧ r.toNat ≤ 0x07) ∨ 0x10 ≤ r.toNat := by decide

theorem witness_SensorOpStopsAtFirstFailure :
    SensorOp .rhRead ∧ (scripted [.ok [], .fail]).cfg.wf = true ∧
    exec .rhRead (scripted [.ok [], .fail]) = .next (after .rhRead (scripted [.ok [], .fail])) :=
  ⟨.rhRead, by decide, rfl⟩

theorem witness_SensorOpsIgnoreLampState :
    SensorOp .slTemp ∧ (scripted [.ok [25]]).cfg.wf = true ∧
    exec .slTemp (scripted [.ok [25]]) = .next (after .slTemp (scripted [.ok [25]])) := ⟨.slTemp, by decide, rfl⟩

theorem witness_PtCalrdReadsAllOrNothing :
    State.reset.cfg.wf = true ∧ promB.length = State.reset.cfg.promReadCount ∧
    (scripted (promScript promB)).oracle = promScript promB ++ [] ∧
    ∀ n ∈ [0, 15], (oks n).all answerOk = true ∧ (oks n).length < 2 * State.reset.cfg.promReadCount ∧
      (scripted (oks n ++ [.fail])).oracle = oks n ++ .fail :: [] := by decide +kernel

theorem witness_PtInitReadsAndVerifies :
    (scripted (promScript promB)).cfg.wf = true ∧ promB.length = State.reset.cfg.promReadCount ∧
    (scripted (promScript promB)).oracle = promScript promB ++ [] ∧ checksumOk (Coeffs.ofWords promB) = true ∧
    checksumOk (Coeffs.ofWords (promB.set 7 0x4543)) = false ∧
    ∀ n ∈ [0, 15], (oks n).all answerOk = true ∧ (oks n).length < 2 * State.reset.cfg.promReadCount := by
  decide +kernel

theorem witness_PtCalvfyComparesChecksum :
    State.reset.cal = none ∧ (calibrated []).cal = some (Coeffs.ofWords promB) := by decide

theorem witness_ChecksumDetectsSingleBitFlips :
    checksumOk (Coeffs.ofWords promB) = true ∧
    ∀ x ∈ [(0, 0), (6, 15), (7, 3), (7, 4), (7, 7), (7, 8), (7, 15)], x.1 < 8 ∧ x.2 < 16 := by decide +kernel

theorem witness_PtTempConvertsOrRefuses :
    State.reset.calValid = false ∧ (calibrated []).cfg.wf = true ∧ (calibrated []).calValid = true ∧
    (calibrated []).cal = some (Coeffs.ofWords promB) ∧
    (calibrated [.ok [], .ok [0x82, 0xC1, 0x3E]]).oracle = .ok [] :: .ok [0x82, 0xC1, 0x3E] :: [] ∧
    (calibrated [.fail]).oracle = .fail :: [] ∧ (calibrated [.ok [], .fail]).oracle = .ok [] :: .fail :: [] := by
  decide

theorem witness_TemperatureConversionExact : 16777215 < 2 ^ 24 ∧ 65535 < 2 ^ 16 := by decide

theorem witness_RhReadConverts :
    (scripted []).cfg.wf = true ∧
    (scripted [.ok [], .ok [0x7C, 0x82, 0x1F]]).oracle = .ok [] :: .ok [0x7C, 0x82, 0x1F] :: [] ∧
    (scripted [.fail]).oracle = .fail :: [] ∧ (scripted [.ok [], .fail]).oracle = .ok [] :: .fail :: [] := by decide

theorem witness_HumidityConversionExact : (0x83 : Byte).toNat / 4 = (0x80 : Byte).toNat / 4 := by decide

theorem witness_SlInitWakesSensor :
    (scripted []).cfg.wf = true ∧ (0x80 : Byte) &&& (scripted []).cfg.slStandbyMask ≠ 0 ∧
    (0x7F : Byte) &&& (scripted []).cfg.slStandbyMask = 0 ∧
    (scripted [.ok [0x80], .ok []]).oracle = .ok [0x80] :: .ok [] :: [] ∧
    (scripted [.ok [0x7F]]).oracle = .ok [0x7F] :: [] ∧ (scripted [.fail]).oracle = .fail :: [] ∧
    (scripted [.ok [0x80], .fail]).oracle = .ok [0x80] :: .fail :: [] := by decide

theorem witness_SlTempSignExtends :
    (scripted []).cfg.wf = true ∧ (scripted [.ok [0x80]]).oracle = .ok [0x80] :: [] ∧
    (scripted [.fail]).oracle = .fail :: [] := by decide

theorem witness_PwmInitBringsUp :
    (scripted []).cfg.wf = true ∧ (oks 12).all answerOk = true ∧ (oks 12).length = 12 ∧
    (scripted (oks 12)).oracle = oks 12 ++ [] ∧
    ∀ n ∈ [0, 11], (oks n).all answerOk = true ∧ (oks n).length < 12 ∧
      (scripted (oks n ++ [.fail])).oracle = oks n ++ .fail :: [] := by decide

theorem witness_PwmSetchWritesOneChannel :
    (scripted []).cfg.wf = true ∧ (∀ a ∈ [(0 : Byte), 7], a.toNat ≤ 7) ∧ (scripted [.fail]).oracle = .fail :: [] ∧
    ∀ a ∈ [(8 : Byte), 255], 7 < a.toNat := by decide

theorem witness_PwmSetgrpWritesEveryMember :
    (scripted []).cfg.wf = true ∧ (scripted []).cfg.amberCh.length = (oks 4).length ∧
    (scripted []).cfg.whiteCh.length = (oks 4).length ∧ (oks 8).length = [0, 1, 2, 3, 4, 5, 6, 7].length ∧
    (scripted (oks 8)).oracle = oks 8 ++ [] ∧ ∀ a ∈ [(3 : Byte), 255], 2 < a.toNat := by decide

theorem witness_PercentToDutyTable : 0 ≤ 100 ∧ 100 ≤ 100 := by decide

theorem witness_PwmPct2dutyAnswers : (100 : Byte).toNat ≤ 100 ∧ 100 < (101 : Byte).toNat := by decide

theorem witness_MixFollowsTheFormula : Config.refcfg.kMin < Config.refcfg.kMax ∧ (1 : Half) ≠ 0 := by decide

theorem witness_MixSumIsBrightnessOrOneMore : Config.refcfg.kMin < Config.refcfg.kMax ∧ (0xFFFF : Half) ≠ 0 := by
  decide

theorem witness_MixEndsOfTheRange :
    Config.refcfg.kMin < Config.refcfg.kMax ∧ Config.refcfg.kMax ≤ 1000000 / (200 : Half).toNat ∧
    1000000 / (455 : Half).toNat ≤ Config.refcfg.kMin := by decide

theorem witness_MixReferenceValues :
    (1 ≤ 1 ∧ 1 ≤ 65535) ∧ (1 ≤ 65535 ∧ 65535 ≤ 65535) ∧ (201 ≤ 201 ∧ 201 ≤ 454) ∧ (201 ≤ 454 ∧ 454 ≤ 454) := by decide

theorem witness_MixerDrivesBothGroupsInIdle :
    MixOp (scripted (oks 8)) (.mixApply 255 1) 255 1 (scripted (oks 8)) ∧
    MixOp (scripted (oks 8)) .mixRecall 128 278 (scripted (oks 8)) ∧
    MixOp (scripted (oks 8)) (.lampSetb 0) 0 278 { scripted (oks 8) with lampBrightness := 0 } ∧
    MixOp (scripted (oks 8)) (.lampSetct 0xFFFF) 128 0xFFFF { scripted (oks 8) with lampMireds := 0xFFFF } ∧
    (scripted (oks 8)).cfg.wf = true ∧ (scripted (oks 8)).animState = .idle ∧ (1 : Half) ≠ 0 ∧ (278 : Half) ≠ 0 ∧
    (oks 8).length = (scripted (oks 8)).cfg.amberCh.length + (scripted (oks 8)).cfg.whiteCh.length ∧
    (scripted (oks 8)).oracle = oks 8 ++ [] :=
  ⟨.mixApply _ _, .mixRecall, .lampSetb _, .lampSetct _, by decide⟩

theorem witness_MixerIsGatedOutsideIdle :
    MixOp (animating .breathing []) (.lampSetct 200) 128 200 { animating .breathing [] with lampMireds := 200 } ∧
    (animating .breathing []).cfg.wf = true ∧ (animating .breathing []).animState ≠ .idle ∧ (200 : Half) ≠ 0 :=
  ⟨.lampSetct _, by decide⟩

theorem witness_LampLoadWritesBothFields : (1 : Half) ≠ 0 := by decide

theorem witness_ApplyIsIdempotent :
    (scripted (oks 16)).cfg.wf = true ∧ (scripted (oks 16)).animState = .idle ∧ (300 : Half) ≠ 0 ∧
    (oks 8).all answerOk = true ∧
    (oks 8).length = (scripted (oks 16)).cfg.amberCh.length + (scripted (oks 16)).cfg.whiteCh.length ∧
    (scripted (oks 16)).oracle = oks 8 ++ oks 8 ++ [] := by decide

theorem witness_TransitionTable :
    exec .animStep (animating .confirmationBlink (oks 8)) =
      .next (after .animStep (animating .confirmationBlink (oks 8))) := rfl

theorem witness_TickAdvancesAndWrites :
    State.reset.animState ≠ .breathing ∧ (animating .breathing (oks 8)).cfg.wf = true ∧
    (animating .breathing (oks 8)).animState = .breathing ∧
    (0 : Turn).toNat = ((animating .breathing (oks 8)).phase.toNat +
      (animating .breathing (oks 8)).freq.toNat) % 2 ^ 24 ∧
    sinePct[(0 : Turn).toNat / 65536]? = some 50 ∧ sinePct[(0xFFFFFF : Turn).toNat / 65536]? = some 49 ∧
    (oks 8).length = 8 ∧ (animating .breathing (oks 8)).oracle = oks 8 ++ [] := by decide +kernel

theorem witness_PhaseAfterTicks : (animating .breathing []).animState = .breathing := by decide

theorem witness_SineTableChecks : 0 < 256 ∧ 255 < 256 := by decide

theorem witness_BootFramesAreTheSequence :
    Config.refcfg.wf = true ∧ Config.refcfg.bootVariant = .ramp ∧ trailSpin.wf = true ∧
    trailSpin.bootVariant = .trailSpin ∧ 40 ≤ 2 * trailSpin.rampUp ∧ 2 < trailSpin.spinRotations ∧ 7 < 8 := by decide

theorem witness_BlinkFramesAreTheSequence : 2 < Config.refcfg.blinkCount := by decide

theorem witness_StepPerformsOneFrame :
    State.reset.animState = .idle ∧ (animating .confirmationBlink (oks 8)).cfg.wf = true ∧
    (animating .confirmationBlink (oks 8)).animState = .confirmationBlink ∧
    (animating .bootSequence (oks 8)).animState = .bootSequence ∧
    (blinkFrames Config.refcfg)[({ animating .confirmationBlink (oks 8) with seqIdx := 6 } : State).seqIdx.toNat]? =
      some (uniformFrame 0 200) ∧
    (6 : Half).toNat + 1 = (blinkFrames Config.refcfg).length ∧
    (bootFrames Config.refcfg)[0]? = some (uniformFrame 0 20) ∧
    (oks 8).length = 8 ∧ (animating .confirmationBlink (oks 8)).oracle = oks 8 ++ [] := by decide +kernel

theorem witness_SequenceEndsAfterItsFrames :
    State.reset.cfg.wf = true ∧ State.reset.cfg.bootFrameCount = 41 ∧ State.reset.cfg.blinkFrameCount = 7 := by decide

end Sys2Proof.Tests
end

/-! SUPPORT. The configuration of 00_scope.md: the check of R10 condition by condition, the frame rule that no operation
writes the configuration (O9), and the steps that wait or refuse (O7). -/

namespace Sys2Proof

/-! ## Each condition of R10 -/

namespace Params

variable (p : Params)

theorem groupSizesOk_iff : p.groupSizesOk = true ↔
    (p.groupSize = 3 ∨ p.groupSize = 4) ∧ p.amberCh.length = p.groupSize ∧ p.whiteCh.length = p.groupSize := by
  simp [groupSizesOk]

theorem channelsInRange_iff : p.channelsInRange = true ↔ ∀ c ∈ p.amberCh ++ p.whiteCh, c ≤ 7 := by
  simp only [channelsInRange, List.all_eq_true, decide_eq_true_eq, Config.nCh, Nat.lt_succ_iff]

theorem channelsDistinct_iff : p.channelsDistinct = true ↔ (p.amberCh ++ p.whiteCh).Nodup := by
  simp only [channelsDistinct, decide_eq_true_eq]

theorem kelvinRangeOk_iff : p.kelvinRangeOk = true ↔ p.kMin < p.kMax := by
  simp only [kelvinRangeOk, decide_eq_true_eq]

theorem defaultMiredsOk_iff : p.defaultMiredsOk = true ↔ p.defaultMireds ≠ 0 := by
  simp only [defaultMiredsOk, bne_iff_ne]

theorem rampStepOk_iff : p.rampStepOk = true ↔ 1 ≤ p.rampStepPct ∧ p.rampStepPct ≤ 100 := by
  simp only [rampStepOk, decide_eq_true_eq]

theorem percentsOk_iff : p.percentsOk = true ↔
    p.spinHeadPct ≤ 100 ∧ p.spinTrailStepPct ≤ 100 ∧ p.blinkOnPct ≤ 100 := by
  simp only [percentsOk, decide_eq_true_eq]

/-- The boot sequence's frame count, both variants in one formula (43_animation.md R190). -/
theorem bootFrameCount_eq : p.bootFrameCount =
    2 * ((100 + p.rampStepPct - 1) / p.rampStepPct) + 1 +
      (if p.bootVariant = .trailSpin then p.spinRotations * 8 else 0) := by
  cases h : p.bootVariant <;> simp [bootFrameCount, rampUp, Config.nCh, h]

theorem frameCountsOk_iff : p.frameCountsOk = true ↔
    2 * ((100 + p.rampStepPct - 1) / p.rampStepPct) + 1 +
      (if p.bootVariant = .trailSpin then p.spinRotations * 8 else 0) < 65536 ∧ 2 * p.blinkCount + 1 < 65536 := by
  simp only [frameCountsOk, bootFrameCount_eq, blinkFrameCount, decide_eq_true_eq]

theorem promCountOk_iff : p.promCountOk = true ↔ p.promReadCount = 7 ∨ p.promReadCount = 8 := by
  simp only [promCountOk, decide_eq_true_eq]

theorem promCodesOk_iff : p.promCodesOk = true ↔ p.promCmdBase.toNat + 7 * p.promCmdStride.toNat ≤ 255 := by
  simp only [promCodesOk, decide_eq_true_eq]

theorem addressesDistinct_iff : p.addressesDistinct = true ↔ [p.ptAddr, p.rhAddr, p.slAddr, p.pwmAddr].Nodup := by
  simp only [addressesDistinct, decide_eq_true_eq]

theorem dutyRangeOk_iff : p.dutyRangeOk = true ↔ p.regPwmBase.toNat + 7 ≤ 255 := by
  rw [dutyRangeOk, decide_eq_true_eq, show Config.nCh = 8 from rfl, Nat.add_sub_assoc (by decide)]

/-- A number is none of the eight registers from `base` on exactly when it lies outside their range. -/
theorem ne_dutyRegisters_iff (n base : Nat) :
    (∀ r ∈ Config.allCh.map (base + ·), n ≠ r) ↔ n < base ∨ base + 7 < n := by
  simp only [Config.allCh, List.map_cons, List.map_nil, List.forall_mem_cons, List.not_mem_nil, false_imp_iff,
    implies_true, and_true]
  omega

/-- The registers from `base` on are pairwise different. -/
theorem dutyRegisters_nodup (base : Nat) : (Config.allCh.map (base + ·)).Nodup :=
  List.Nodup.map (fun _ _ h => Nat.add_left_cancel h) (by decide)

/-- The mode registers as bytes, pairwise different and outside the duty range. -/
theorem registersDistinct_iff : p.registersDistinct = true ↔
    [p.regMode1, p.regMode2, p.regLedout0, p.regLedout1].Nodup ∧
    ∀ r ∈ [p.regMode1, p.regMode2, p.regLedout0, p.regLedout1],
      r.toNat < p.regPwmBase.toNat ∨ p.regPwmBase.toNat + 7 < r.toNat := by
  have hmap : [p.regMode1.toNat, p.regMode2.toNat, p.regLedout0.toNat, p.regLedout1.toNat] =
      [p.regMode1, p.regMode2, p.regLedout0, p.regLedout1].map BitVec.toNat := rfl
  have hinj : Function.Injective (BitVec.toNat (w := 8)) := fun _ _ => BitVec.eq_of_toNat_eq
  rw [registersDistinct, decide_eq_true_eq, hmap, List.nodup_append, List.nodup_map_iff hinj, List.forall_mem_map]
  simp only [ne_dutyRegisters_iff, dutyRegisters_nodup, true_and]

/-- The whole check: every condition of R10, and R9's on PROM_READ_COUNT. -/
theorem wf_iff : p.wf = true ↔
    p.groupSizesOk = true ∧ p.channelsInRange = true ∧ p.channelsDistinct = true ∧ p.kelvinRangeOk = true ∧
    p.defaultMiredsOk = true ∧ p.rampStepOk = true ∧ p.percentsOk = true ∧ p.frameCountsOk = true ∧
    p.promCountOk = true ∧ p.promCodesOk = true ∧ p.addressesDistinct = true ∧ p.dutyRangeOk = true ∧
    p.registersDistinct = true := by
  simp only [wf, checks, List.all_cons, List.all_nil, id, Bool.and_eq_true, and_true]

end Params

end Sys2Proof

namespace Sys2Proof.Machine

/-! ## The shared operations leave the configuration alone -/

theorem onBus_cfg (q : BusRequest) (s : State) (next : List Byte → State → State)
    (h : ∀ bytes u, (next bytes u).cfg = u.cfg) : (onBus q s next).cfg = s.cfg := by
  rcases onBus_cases q s next with ⟨-, hi, he⟩ | ⟨bytes, -, hi, he⟩
  · rw [he, respond_cfg, hi.cfg]
  · rw [he, h, hi.cfg]

theorem writeSteps_cfg (ws : List (Byte × Byte)) (s : State) (next : State → State)
    (h : ∀ u, (next u).cfg = u.cfg) : (writeSteps ws s next).cfg = s.cfg := by
  rcases writeSteps_cases ws s with ⟨u, hi, he⟩ | ⟨k, u, -, hi, he⟩
  · rw [he, h, hi.cfg]
  · rw [he, respond_cfg, hi.cfg]

theorem readCalibration_cfg (s : State) (next : Coeffs → State → State)
    (h : ∀ c u, (next c u).cfg = u.cfg) : (readCalibration s next).cfg = s.cfg := by
  unfold readCalibration
  rcases promWords_cases s.cfg.promReadCount 0 s with ⟨l, u, hi, -, -, -, he⟩ | ⟨l, u, ws, hi, -, -, -, -, he⟩
  · rw [he, respond_cfg, hi.cfg]
  · rw [he, h]
    exact hi.cfg

theorem setGroup_cfg (chs : List Nat) (duty : Byte) (s : State) : (setGroup chs duty s).state.cfg = s.cfg :=
  writeChannels_cfg _ s

theorem applyFrame_cfg (levels : List Nat) (s : State) : (applyFrame levels s).state.cfg = s.cfg :=
  writeChannels_cfg _ s

theorem applyMix_cfg (b : Byte) (m : Half) (s : State) : (applyMix b m s).2.2.cfg = s.cfg := by
  by_cases hm : m = 0
  · rw [hm, applyMix_zero]
  · by_cases hs : s.animState = .idle
    · rw [applyMix_idle b hm hs, writeChannels_cfg]
    · rw [applyMix_gated b hm hs]

theorem applyAndRespond_cfg (b : Byte) (m : Half) (s : State) : (applyAndRespond b m s).cfg = s.cfg :=
  applyMix_cfg b m s

/-! ## No operation writes the configuration -/

/-- If the outcome of an operation in `s` is a next state, it is under the configuration of `s`. -/
def KeepsCfg (s : State) (o : Host.Outcome State Fault Refusal) : Prop := ∀ t, o = .next t → t.cfg = s.cfg

theorem keepsCfg_next {s t : State} (h : t.cfg = s.cfg) : KeepsCfg s (.next t) := by
  rintro _ ⟨⟩
  exact h

theorem keepsCfg_fault (s : State) (r : Fault) : KeepsCfg s (.fault r) := nofun

theorem execPtCalvfy_keepsCfg (s : State) : KeepsCfg s (execPtCalvfy s) := by
  apply keepsCfg_next
  split
  · rfl
  · split <;> rfl

theorem execPtInit_keepsCfg (s : State) : KeepsCfg s (execPtInit s) :=
  keepsCfg_next <| readCalibration_cfg s _ fun c u => by split <;> rfl

theorem execPtTemp_keepsCfg (s : State) : KeepsCfg s (execPtTemp s) := by
  apply keepsCfg_next
  split
  · exact onBus_cfg _ s _ fun _ u => onBus_cfg _ u _ fun _ _ => rfl
  · rfl

theorem execRhRead_keepsCfg (s : State) : KeepsCfg s (execRhRead s) :=
  keepsCfg_next <| onBus_cfg _ s _ fun _ u => onBus_cfg _ u _ fun _ _ => rfl

theorem execSlInit_keepsCfg (s : State) : KeepsCfg s (execSlInit s) := by
  refine keepsCfg_next <| onBus_cfg _ s _ fun bytes u => ?_
  split
  · exact onBus_cfg _ u _ fun _ _ => rfl
  · rfl

theorem execPwmSetgrp_keepsCfg (a d : Byte) (s : State) : KeepsCfg s (execPwmSetgrp a d s) := by
  apply keepsCfg_next
  split
  · rfl
  · exact setGroup_cfg _ d s

theorem execPwmPct2duty_keepsCfg (p : Byte) (s : State) : KeepsCfg s (execPwmPct2duty p s) := by
  apply keepsCfg_next
  split <;> rfl

theorem execLampLoad_keepsCfg (b : Byte) (m : Half) (s : State) : KeepsCfg s (execLampLoad b m s) := by
  apply keepsCfg_next
  split <;> rfl

theorem execLampSetct_keepsCfg (m : Half) (s : State) : KeepsCfg s (execLampSetct m s) := by
  apply keepsCfg_next
  split
  · rfl
  · exact applyAndRespond_cfg _ m _

theorem execAnimTick_keepsCfg (s : State) : KeepsCfg s (execAnimTick s) := by
  apply keepsCfg_next
  split
  · exact setGroup_cfg _ _ _
  · rfl

theorem execAnimStep_keepsCfg (s : State) : KeepsCfg s (execAnimStep s) := by
  unfold execAnimStep
  split
  · exact keepsCfg_next rfl
  · split
    · exact keepsCfg_fault s _
    · next frame _ =>
      have hframe : (applyFrame frame.levels s).state.cfg = s.cfg := applyFrame_cfg _ s
      dsimp only
      split
      · exact keepsCfg_next hframe
      · exact keepsCfg_next hframe

/-- "No operation writes `P`" (R10). -/
theorem exec_keepsCfg (i : Instr) (s : State) : KeepsCfg s (exec i s) := by
  cases i with
  | nop => exact keepsCfg_next rfl
  | rdreg r => exact keepsCfg_next rfl
  | ptCalrd => exact keepsCfg_next (readCalibration_cfg s _ fun _ _ => rfl)
  | ptCalvfy => exact execPtCalvfy_keepsCfg s
  | ptInit => exact execPtInit_keepsCfg s
  | ptTemp => exact execPtTemp_keepsCfg s
  | rhRead => exact execRhRead_keepsCfg s
  | slInit => exact execSlInit_keepsCfg s
  | slTemp => exact keepsCfg_next (onBus_cfg _ s _ fun _ _ => rfl)
  | pwmInit => exact keepsCfg_next (writeSteps_cfg _ { s with pwmEn := true } _ fun _ => rfl)
  | pwmSetch a d => exact keepsCfg_next (setChannel_cfg a.toNat d s)
  | pwmSetgrp a d => exact execPwmSetgrp_keepsCfg a d s
  | pwmPct2duty p => exact execPwmPct2duty_keepsCfg p s
  | lampLoad b m => exact execLampLoad_keepsCfg b m s
  | lampSetb b => exact keepsCfg_next (applyAndRespond_cfg b s.lampMireds { s with lampBrightness := b })
  | lampSetct m => exact execLampSetct_keepsCfg m s
  | mixApply b m => exact keepsCfg_next (applyAndRespond_cfg b m s)
  | mixRecall => exact keepsCfg_next (applyAndRespond_cfg s.lampBrightness s.lampMireds s)
  | animBoot => exact keepsCfg_next rfl
  | animBrinit f => exact keepsCfg_next rfl
  | animBren => exact keepsCfg_next rfl
  | animStop => exact keepsCfg_next rfl
  | animBlink => exact keepsCfg_next rfl
  | animTick => exact execAnimTick_keepsCfg s
  | animStep => exact execAnimStep_keepsCfg s

/-- An operation that answers a next state leaves the configuration as it was. -/
theorem exec_cfg {i : Instr} {s t : State} (h : exec i s = .next t) : t.cfg = s.cfg := exec_keepsCfg i s t h

/-- Settles O9: the check is rewritten condition by condition, and every operation keeps the configuration. -/
theorem configurationCheck : Obligations.ConfigurationCheck := by
  refine ⟨fun p => ?_, fun i s t h => exec_cfg h⟩
  rw [Params.wf_iff, Params.groupSizesOk_iff, Params.channelsInRange_iff, Params.channelsDistinct_iff,
    Params.kelvinRangeOk_iff, Params.defaultMiredsOk_iff, Params.rampStepOk_iff, Params.percentsOk_iff,
    Params.frameCountsOk_iff, Params.promCountOk_iff, Params.promCodesOk_iff, Params.addressesDistinct_iff,
    Params.dutyRangeOk_iff, Params.registersDistinct_iff]
  simp only [and_assoc]

/-! ## A step with nothing to take, and a step under an ill-formed configuration -/

/-- With nothing to take the block waits (log 3). -/
theorem step_of_input_nil {s : State} (hwf : s.cfg.wf = true) (hin : s.input = []) : step s = .next s := by
  simp [step, hwf, hin]

/-- A configuration that breaks R10 is refused before anything is taken (log 2). -/
theorem step_of_not_wf {s : State} (hwf : s.cfg.wf = false) : step s = .refused .illFormedConfig := by
  simp [step, hwf]

/-- Settles O7: the two hypotheses choose the branch of the step. -/
theorem stepWaitsOrRefuses : Obligations.StepWaitsOrRefuses :=
  ⟨fun _ hwf hin => step_of_input_nil hwf hin, fun _ hwf => step_of_not_wf hwf⟩

end Sys2Proof.Machine

/-! SUPPORT. What an operation leaves of the block's state (10_state.md R31): the elements it writes, one constructor per
row, then its transactions, then its response. The invariants of R22, R23 and R28, the match of PWMDEV with H, and the
written-by column are each read off that (O11, O15, O17), with the state after reset (O8, O10). -/

namespace Sys2Proof.Machine

/-! ## The state after reset (10_state.md R35) -/

/-- Settles O8, element by element. -/
theorem resetValues : Obligations.ResetValues := fun p =>
  ⟨resetWith_cal p, rfl, resetWith_calValid p, resetWith_lampBrightness p, resetWith_lampMireds p,
    resetWith_animState p, resetWith_phase p, resetWith_freq p, resetWith_seqIdx p, resetWith_pwmEn p,
    fun r => Memory.read_nil r, resetWith_history p⟩

/-- After reset the invariants rest on one condition of R10, that DEFAULT_MIREDS is not 0. -/
theorem inv_resetWith {p : Params} (hwf : p.wf = true) : Inv (State.resetWith p) := by
  obtain ⟨-, -, -, -, hmireds, -⟩ := p.wf_iff.mp hwf
  exact ⟨hwf, nofun, p.defaultMiredsOk_iff.mp hmireds, rfl, rfl⟩

/-- Settles O10: the reference configuration passes the check. -/
theorem invariantHoldsAtReset : Obligations.InvariantHoldsAtReset :=
  ⟨fun _ hwf => inv_resetWith hwf, inv_resetWith (by decide), rfl⟩

/-! ## What an operation writes -/

/-- `Writes i s w`: `w` is `s` with the elements of the block's own state that `i` writes, besides PWMDEV and H, as the
rows of 10_state.md R31 name them. Any operation but PWM.INIT may end without a write of its own. -/
inductive Writes : Instr → State → State → Prop where
  | nothing {i : Instr} {s : State} (hi : i ≠ .pwmInit) : Writes i s s
  | ptCalrd {s : State} (c : Coeffs) : Writes .ptCalrd s { s with cal := some c, calValid := false }
  | ptInit {s : State} (c : Coeffs) : Writes .ptInit s { s with cal := some c, calValid := checksumOk c }
  | ptCalvfy {s : State} {c : Coeffs} (hcal : s.cal = some c) : Writes .ptCalvfy s { s with calValid := checksumOk c }
  | pwmInit {s : State} : Writes .pwmInit s { s with pwmEn := true }
  | lampLoad {s : State} {b : Byte} {m : Half} (hm : m ≠ 0) :
      Writes (.lampLoad b m) s { s with lampBrightness := b, lampMireds := m }
  | lampSetb {s : State} {b : Byte} : Writes (.lampSetb b) s { s with lampBrightness := b }
  | lampSetct {s : State} {m : Half} (hm : m ≠ 0) : Writes (.lampSetct m) s { s with lampMireds := m }
  | animBoot {s : State} : Writes .animBoot s (enterState .bootSequence s)
  | animBrinit {s : State} {f : Turn} : Writes (.animBrinit f) s { s with phase := 0, freq := f }
  | animBren {s : State} : Writes .animBren s (enterState .breathing s)
  | animStop {s : State} : Writes .animStop s (enterState .idle s)
  | animBlink {s : State} : Writes .animBlink s (enterState .confirmationBlink s)
  | animTick {s : State} : Writes .animTick s { s with phase := s.phase + s.freq }
  | lastFrame {s : State} : Writes .animStep s (enterState .idle s)
  | nextFrame {s : State} {frames : List Frame} (hf : runningFrames s = some frames)
      (hl : s.seqIdx.toNat + 1 < frames.length) : Writes .animStep s { s with seqIdx := s.seqIdx + 1 }

/-- `t` is `w` after some transactions and one response. -/
def Answered (w t : State) : Prop := ∃ l u st v, Issued w l u ∧ t = respond st v u

/-- `t` is `s` after the operation `i`: its writes, its transactions, its response. -/
def Performed (i : Instr) (s t : State) : Prop := ∃ w, Writes i s w ∧ Answered w t

/-! ## Transactions, then a response -/

theorem answered_respond (st : Status) (v : Word) (s : State) : Answered s (respond st v s) :=
  ⟨[], s, st, v, Issued.refl s, rfl⟩

/-- Transactions before an answered rest. -/
theorem Issued.answered {s u t : State} {l : List Transaction} (hi : Issued s l u) (ht : Answered u t) :
    Answered s t := by
  obtain ⟨l', u', st, v, hi', rfl⟩ := ht
  exact ⟨l ++ l', u', st, v, hi.trans hi', rfl⟩

theorem onBus_answered (q : BusRequest) (s : State) (next : List Byte → State → State)
    (h : ∀ bytes u, Answered u (next bytes u)) : Answered s (onBus q s next) := by
  rcases onBus_cases q s next with ⟨-, hi, he⟩ | ⟨bytes, -, hi, he⟩
  · rw [he]; exact hi.answered (answered_respond ..)
  · rw [he]; exact hi.answered (h ..)

theorem writeSteps_answered (ws : List (Byte × Byte)) (s : State) (next : State → State)
    (h : ∀ u, Answered u (next u)) : Answered s (writeSteps ws s next) := by
  rcases writeSteps_cases ws s with ⟨u, hi, he⟩ | ⟨k, u, -, hi, he⟩
  · rw [he]; exact hi.answered (h u)
  · rw [he]; exact hi.answered (answered_respond ..)

/-- One channel write is at most one transaction, whatever the channel and the configuration. -/
theorem setChannel_issued (ch : Nat) (duty : Byte) (s : State) : ∃ l, Issued s l (setChannel ch duty s).2 := by
  by_cases h : 7 < ch
  · exact ⟨[], by rw [setChannel_out ch duty s h]; exact Issued.refl s⟩
  · exact ⟨_, by rw [(setChannel_in ch duty s (by omega)).1]; exact transact_issued _ s⟩

/-- A best-effort run issues transactions only; unlike `writeChannels_spec`, also with a channel out of range. -/
theorem writeChannels_issued (ds : List (Nat × Byte)) (s : State) : ∃ l, Issued s l (writeChannels ds s).state := by
  induction ds generalizing s with
  | nil => exact ⟨[], Issued.refl s⟩
  | cons x ds ih =>
    obtain ⟨l, hi⟩ := setChannel_issued x.1 x.2 s
    obtain ⟨l', hi'⟩ := ih (setChannel x.1 x.2 s).2
    exact ⟨l ++ l', hi.trans hi'⟩

/-- A best-effort run, then a response. -/
theorem writeChannels_answered (ds : List (Nat × Byte)) (s : State) (st : Status) (v : Word) :
    Answered s (respond st v (writeChannels ds s).state) := by
  obtain ⟨l, hi⟩ := writeChannels_issued ds s
  exact hi.answered (answered_respond ..)

theorem applyAndRespond_answered (b : Byte) (m : Half) (s : State) : Answered s (applyAndRespond b m s) := by
  unfold applyAndRespond
  by_cases hm : m = 0
  · rw [hm, applyMix_zero]; exact answered_respond ..
  · by_cases hs : s.animState = .idle
    · rw [applyMix_idle b hm hs]; exact writeChannels_answered ..
    · rw [applyMix_gated b hm hs]; exact answered_respond ..

/-! ## Transactions commute with the writes that follow them -/

theorem Issued.with_cal {s u : State} {l : List Transaction} (h : Issued s l u) (c : Option Coeffs) (valid : Bool) :
    Issued { s with cal := c, calValid := valid } l { u with cal := c, calValid := valid } := by
  unfold Issued
  rw [h]

theorem Issued.with_seqIdx {s u : State} {l : List Transaction} (h : Issued s l u) (k : Half) :
    Issued { s with seqIdx := k } l { u with seqIdx := k } := by
  unfold Issued
  rw [h]

theorem Issued.enterState {s u : State} {l : List Transaction} (h : Issued s l u) (a : AnimState) :
    Issued (enterState a s) l (enterState a u) := by
  unfold Issued Machine.enterState
  rw [h]

/-- Everything the PROM read can do (40_calibration_conversion.md R104): the first failure ends it with the coefficients
as they were, or all words arrive and the new ones stand, unverified. -/
theorem readCalibration_cases (s : State) :
    (∃ l u, Issued s l u ∧ ∀ next, readCalibration s next = respond .busError 0 u) ∨
    ∃ l u c, Issued s l u ∧ ∀ next, readCalibration s next = next c { u with cal := some c, calValid := false } := by
  rcases promWords_cases s.cfg.promReadCount 0 s with ⟨l, u, hi, -, -, -, he⟩ | ⟨l, u, ws, hi, -, -, -, -, he⟩
  · exact Or.inl ⟨l, u, hi, fun _ => he _⟩
  · exact Or.inr ⟨l, u, Coeffs.ofWords ws, hi, fun _ => he _⟩

/-! ## Every operation writes what its row names -/

/-- If the outcome of the operation `i` in `s` is a next state, it is `s` after that operation. -/
def Performs (i : Instr) (s : State) (o : Host.Outcome State Fault Refusal) : Prop := ∀ t, o = .next t → Performed i s t

theorem performs_next {i : Instr} {s w t : State} (hw : Writes i s w) (ht : Answered w t) :
    Performs i s (.next t) := by
  rintro _ ⟨⟩
  exact ⟨w, hw, ht⟩

theorem performs_fault (i : Instr) (s : State) (r : Fault) : Performs i s (.fault r) := nofun

theorem execPtCalrd_performs (s : State) : Performs .ptCalrd s (execPtCalrd s) := by
  unfold execPtCalrd
  rcases readCalibration_cases s with ⟨l, u, hi, he⟩ | ⟨l, u, c, hi, he⟩
  · rw [he]; exact performs_next (.nothing nofun) (hi.answered (answered_respond ..))
  · rw [he]; exact performs_next (.ptCalrd c) ((hi.with_cal _ _).answered (answered_respond ..))

theorem execPtCalvfy_performs (s : State) : Performs .ptCalvfy s (execPtCalvfy s) := by
  unfold execPtCalvfy
  split
  · exact performs_next (.nothing nofun) (answered_respond ..)
  · next c hcal =>
    have hw := Writes.ptCalvfy hcal
    split
    · next hok => rw [hok] at hw; exact performs_next hw (answered_respond ..)
    · next hok => rw [Bool.eq_false_of_not_eq_true hok] at hw; exact performs_next hw (answered_respond ..)

theorem execPtInit_performs (s : State) : Performs .ptInit s (execPtInit s) := by
  unfold execPtInit
  rcases readCalibration_cases s with ⟨l, u, hi, he⟩ | ⟨l, u, c, hi, he⟩
  · rw [he]; exact performs_next (.nothing nofun) (hi.answered (answered_respond ..))
  · rw [he]
    refine performs_next (.ptInit c) ((hi.with_cal _ _).answered ?_)
    cases checksumOk c <;> exact answered_respond ..

theorem execPtTemp_performs (s : State) : Performs .ptTemp s (execPtTemp s) := by
  refine performs_next (.nothing nofun) ?_
  split
  · exact onBus_answered _ s _ fun _ u => onBus_answered _ u _ fun _ _ => answered_respond ..
  · exact answered_respond ..

theorem execRhRead_performs (s : State) : Performs .rhRead s (execRhRead s) :=
  performs_next (.nothing nofun) <|
    onBus_answered _ s _ fun _ u => onBus_answered _ u _ fun _ _ => answered_respond ..

theorem execSlInit_performs (s : State) : Performs .slInit s (execSlInit s) := by
  refine performs_next (.nothing nofun) (onBus_answered _ s _ fun bytes u => ?_)
  split
  · exact onBus_answered _ u _ fun _ _ => answered_respond ..
  · exact answered_respond ..

theorem execPwmSetch_performs (a d : Byte) (s : State) : Performs (.pwmSetch a d) s (execPwmSetch a d s) := by
  obtain ⟨l, hi⟩ := setChannel_issued a.toNat d s
  exact performs_next (.nothing nofun) (hi.answered (answered_respond ..))

theorem execPwmSetgrp_performs (a d : Byte) (s : State) : Performs (.pwmSetgrp a d) s (execPwmSetgrp a d s) := by
  refine performs_next (.nothing nofun) ?_
  split
  · exact answered_respond ..
  · exact writeChannels_answered ..

theorem execPwmPct2duty_performs (p : Byte) (s : State) : Performs (.pwmPct2duty p) s (execPwmPct2duty p s) := by
  refine performs_next (.nothing nofun) ?_
  split <;> exact answered_respond ..

theorem execLampLoad_performs (b : Byte) (m : Half) (s : State) :
    Performs (.lampLoad b m) s (execLampLoad b m s) := by
  unfold execLampLoad
  split
  · exact performs_next (.nothing nofun) (answered_respond ..)
  · next hm => exact performs_next (.lampLoad hm) (answered_respond ..)

theorem execLampSetct_performs (m : Half) (s : State) : Performs (.lampSetct m) s (execLampSetct m s) := by
  unfold execLampSetct
  split
  · exact performs_next (.nothing nofun) (answered_respond ..)
  · next hm => exact performs_next (.lampSetct hm) (applyAndRespond_answered ..)

theorem execAnimTick_performs (s : State) : Performs .animTick s (execAnimTick s) := by
  unfold execAnimTick
  split
  · exact performs_next .animTick (writeChannels_answered ..)
  · exact performs_next (.nothing nofun) (answered_respond ..)

theorem execAnimStep_performs (s : State) : Performs .animStep s (execAnimStep s) := by
  cases hf : runningFrames s with
  | none => rw [execAnimStep_none hf]; exact performs_next (.nothing nofun) (answered_respond ..)
  | some frames =>
    cases hk : frames[s.seqIdx.toNat]? with
    | none => simp only [execAnimStep, hf, hk]; exact performs_fault _ s _
    | some frame =>
      obtain ⟨hlt, -⟩ := List.getElem?_eq_some_iff.mp hk
      obtain ⟨l, hi⟩ : ∃ l, Issued s l (applyFrame frame.levels s).state := writeChannels_issued _ s
      by_cases hl : s.seqIdx.toNat + 1 = frames.length
      · rw [execAnimStep_last hf hk hl]
        exact performs_next .lastFrame ((hi.enterState _).answered (answered_respond ..))
      · rw [execAnimStep_more hf hk hl]
        exact performs_next (.nextFrame hf (by omega)) ((hi.with_seqIdx _).answered (answered_respond ..))

theorem exec_performs (i : Instr) (s : State) : Performs i s (exec i s) := by
  cases i with
  | nop => exact performs_next (.nothing nofun) (answered_respond ..)
  | rdreg r => exact performs_next (.nothing nofun) (answered_respond ..)
  | ptCalrd => exact execPtCalrd_performs s
  | ptCalvfy => exact execPtCalvfy_performs s
  | ptInit => exact execPtInit_performs s
  | ptTemp => exact execPtTemp_performs s
  | rhRead => exact execRhRead_performs s
  | slInit => exact execSlInit_performs s
  | slTemp => exact performs_next (.nothing nofun) (onBus_answered _ s _ fun _ _ => answered_respond ..)
  | pwmInit => exact performs_next .pwmInit (writeSteps_answered _ _ _ fun _ => answered_respond ..)
  | pwmSetch a d => exact execPwmSetch_performs a d s
  | pwmSetgrp a d => exact execPwmSetgrp_performs a d s
  | pwmPct2duty p => exact execPwmPct2duty_performs p s
  | lampLoad b m => exact execLampLoad_performs b m s
  | lampSetb b => exact performs_next .lampSetb (applyAndRespond_answered ..)
  | lampSetct m => exact execLampSetct_performs m s
  | mixApply b m => exact performs_next (.nothing nofun) (applyAndRespond_answered ..)
  | mixRecall => exact performs_next (.nothing nofun) (applyAndRespond_answered ..)
  | animBoot => exact performs_next .animBoot (answered_respond ..)
  | animBrinit f => exact performs_next .animBrinit (answered_respond ..)
  | animBren => exact performs_next .animBren (answered_respond ..)
  | animStop => exact performs_next .animStop (answered_respond ..)
  | animBlink => exact performs_next .animBlink (answered_respond ..)
  | animTick => exact execAnimTick_performs s
  | animStep => exact execAnimStep_performs s

/-- Everything an operation can do to the state: its writes, then its transactions, then one response. -/
theorem exec_performed {i : Instr} {s t : State} (h : exec i s = .next t) : Performed i s t := exec_performs i s t h

/-- Everything a step can do: wait, reset, perform an operation, or answer an illegal word. -/
theorem step_cases {s t : State} (h : step s = .next t) :
    t = s ∨ (∃ rest, s.input = .reset :: rest ∧ t = applyReset rest s) ∨
    (∃ src w rest i, s.input = .event src w :: rest ∧ decode w = .ok i ∧ Performed i (accept src rest s) t) ∨
    ∃ src w rest, s.input = .event src w :: rest ∧ (∀ i, decode w ≠ .ok i) ∧
      t = performIllegal (accept src rest s) := by
  unfold step at h
  split at h
  · split at h
    · cases h; exact .inl rfl
    · next rest hin => cases h; exact .inr (.inl ⟨rest, hin, rfl⟩)
    · next src w rest hin =>
      split at h
      · next i hd => exact .inr (.inr (.inl ⟨src, w, rest, i, hin, hd, exec_performed h⟩))
      · next e hd => cases h; exact .inr (.inr (.inr ⟨src, w, rest, hin, by simp [hd], rfl⟩))
  · cases h

/-! ## The written-by column of R31 -/

/-- Settles O17: the constructors of `Writes` are the rows, and neither transactions nor the response touch an element
of theirs. -/
theorem onlyNamedOperationsWriteState : Obligations.OnlyNamedOperationsWriteState := by
  intro i s t h
  obtain ⟨w, hw, l, u, st, v, hi, rfl⟩ := exec_performed h
  simp only [respond_cal, respond_calValid, respond_lampBrightness, respond_lampMireds, respond_animState,
    respond_seqIdx, respond_phase, respond_freq, respond_pwmEn, hi.cal, hi.calValid, hi.lampBrightness, hi.lampMireds,
    hi.animState, hi.seqIdx, hi.phase, hi.freq, hi.pwmEn]
  cases hw with
  | nothing hne => simp [hne]
  | _ => simp

/-! ## The invariants -/

theorem Writes.cfg {i : Instr} {s w : State} (h : Writes i s w) : w.cfg = s.cfg := by cases h <;> rfl
theorem Writes.pwmdev {i : Instr} {s w : State} (h : Writes i s w) : w.pwmdev = s.pwmdev := by cases h <;> rfl
theorem Writes.history {i : Instr} {s w : State} (h : Writes i s w) : w.history = s.history := by cases h <;> rfl

/-- R22: CAL_VALID is set only where there are coefficients, and nothing takes them away. -/
theorem Writes.calLoaded_of_calValid {i : Instr} {s w : State} (h : Writes i s w)
    (hs : s.calValid = true → s.calLoaded = true) : w.calValid = true → w.calLoaded = true := by
  cases h with
  | ptCalrd c => nofun
  | ptInit c => exact fun _ => rfl
  | ptCalvfy hcal => exact fun _ => by simp [State.calLoaded, hcal]
  | _ => exact hs

/-- R23: the two operations that write LAMP_MIREDS refuse 0 first. -/
theorem Writes.lampMireds_ne_zero {i : Instr} {s w : State} (h : Writes i s w) (hs : s.lampMireds ≠ 0) :
    w.lampMireds ≠ 0 := by
  cases h with
  | lampLoad hm => exact hm
  | lampSetct hm => exact hm
  | _ => exact hs

theorem bootFrames_length_pos (p : Params) : 0 < (bootFrames p).length := by
  have hramp : 0 < (rampFrames p).length := by simp [rampFrames, rampLevels, rampUpLevels]
  unfold bootFrames
  split
  · exact hramp
  · rw [List.length_append]; omega

theorem blinkFrames_length_pos (p : Params) : 0 < (blinkFrames p).length := Nat.succ_pos _

/-- Both sequences have a first frame, so every transition puts SEQ_IDX in range (43_animation.md R180). -/
theorem seqInRange_enterState (a : AnimState) (s : State) : seqInRange (enterState a s) = true := by
  cases a with
  | idle => rfl
  | breathing => rfl
  | bootSequence => exact decide_eq_true (bootFrames_length_pos s.cfg)
  | confirmationBlink => exact decide_eq_true (blinkFrames_length_pos s.cfg)

/-- The range of SEQ_IDX is a matter of three elements. -/
theorem seqInRange_congr {s t : State} (hc : t.cfg = s.cfg) (ha : t.animState = s.animState)
    (hi : t.seqIdx = s.seqIdx) : seqInRange t = seqInRange s := by
  simp only [seqInRange, runningFrames, hc, ha, hi]

/-- R28: SEQ_IDX advances only to a frame that exists. -/
theorem Writes.seqInRange {i : Instr} {s w : State} (h : Writes i s w) (hs : seqInRange s = true) :
    Machine.seqInRange w = true := by
  cases h with
  | animBoot | animBren | animStop | animBlink | lastFrame => exact seqInRange_enterState ..
  | nextFrame hf hl =>
    have hf' : runningFrames { s with seqIdx := s.seqIdx + 1 } = some _ := hf
    have hle : (s.seqIdx + 1).toNat ≤ s.seqIdx.toNat + 1 := by
      rw [BitVec.toNat_add]; exact Nat.mod_le _ _
    simp only [Machine.seqInRange, hf']
    exact decide_eq_true (by omega)
  | _ => exact hs

theorem Writes.inv {i : Instr} {s w : State} (h : Writes i s w) (hs : Inv s) : Inv w := by
  obtain ⟨hwf, hcal, hmireds, hseq, hdev⟩ := hs
  exact ⟨h.cfg ▸ hwf, h.calLoaded_of_calValid hcal, h.lampMireds_ne_zero hmireds, h.seqInRange hseq, h.pwmdev ▸ hdev⟩

/-- Transactions keep the invariants: of the elements these speak of, they change PWMDEV alone. -/
theorem Issued.inv {s u : State} {l : List Transaction} (h : Issued s l u) (hs : Inv s) : Inv u := by
  obtain ⟨hwf, hcal, hmireds, hseq, hdev⟩ := hs
  refine ⟨h.cfg ▸ hwf, ?_, h.lampMireds ▸ hmireds, ?_, ?_⟩
  · rw [h.calValid, State.calLoaded, h.cal]; exact hcal
  · rw [seqInRange_congr h.cfg h.animState h.seqIdx]; exact hseq
  · rw [h.pwmdev]; exact deviceAfter_wf _ l _ hdev

theorem Performed.inv {i : Instr} {s t : State} (h : Performed i s t) (hs : Inv s) : Inv t := by
  obtain ⟨w, hw, l, u, st, v, hi, rfl⟩ := h
  exact hi.inv (hw.inv hs)

/-- Settles O11: a reset gives the reset state's elements, taking a word and answering it touch none the invariants
speak of, and an operation keeps them. -/
theorem stepKeepsInvariant : Obligations.StepKeepsInvariant := by
  intro s t hs h
  rcases step_cases h with rfl | ⟨rest, -, rfl⟩ | ⟨src, w, rest, i, -, -, hp⟩ | ⟨src, w, rest, -, -, rfl⟩
  · exact hs
  · exact inv_resetWith hs.left
  · exact hp.inv hs
  · exact hs

/-! ## PWMDEV and H -/

/-- Each register of the PWM controller holds the last byte H says was stored there. -/
def DeviceMatchesHistory (s : State) : Prop := ∀ r, Memory.read s.pwmdev r = lastStored s.cfg r s.history

theorem deviceMatchesHistory_of_empty {s : State} (hd : s.pwmdev = []) (hh : s.history = []) :
    DeviceMatchesHistory s := fun r => by
  rw [hd, hh, Memory.read_nil, lastStored_nil]

theorem Writes.deviceMatchesHistory {i : Instr} {s w : State} (h : Writes i s w) (hs : DeviceMatchesHistory s) :
    DeviceMatchesHistory w := fun r => by
  rw [h.pwmdev, h.cfg, h.history, hs r]

/-- H and PWMDEV grow together: what a run appends to H is what it stores (20_memory.md R58). -/
theorem Issued.deviceMatchesHistory {s u : State} {l : List Transaction} (h : Issued s l u)
    (hs : DeviceMatchesHistory s) : DeviceMatchesHistory u := fun r => by
  rw [h.read, hs r, h.cfg, h.history, lastStored_append]

theorem Performed.deviceMatchesHistory {i : Instr} {s t : State} (h : Performed i s t) (hs : DeviceMatchesHistory s) :
    DeviceMatchesHistory t := by
  obtain ⟨w, hw, l, u, st, v, hi, rfl⟩ := h
  exact hi.deviceMatchesHistory (hw.deviceMatchesHistory hs)

theorem step_deviceMatchesHistory {s t : State} (h : step s = .next t) (hs : DeviceMatchesHistory s) :
    DeviceMatchesHistory t := by
  rcases step_cases h with rfl | ⟨rest, -, rfl⟩ | ⟨src, w, rest, i, -, -, hp⟩ | ⟨src, w, rest, -, -, rfl⟩
  · exact hs
  · exact deviceMatchesHistory_of_empty (applyReset_pwmdev rest s) (applyReset_history rest s)
  · exact hp.deviceMatchesHistory hs
  · exact hs

/-- Settles O15: both are empty after reset, and every step keeps the match. -/
theorem historyDeterminesDevice : Obligations.HistoryDeterminesDevice :=
  ⟨fun p => deviceMatchesHistory_of_empty (resetWith_pwmdev p) (resetWith_history p),
    fun _ _ hs h => step_deviceMatchesHistory h hs⟩

end Sys2Proof.Machine

/-! SUPPORT. What the operations put on the bus (20_memory.md R57, R58): which transactions they add to H, and so what
they store in PWMDEV (O14); and that they never look at H (O18). -/

namespace Sys2Proof.Machine

/-! ## The transactions a run adds to H -/

/-- `t` has the history of `s` and after it only transactions of the kind `P`. -/
def Records (P : Transaction → Prop) (s t : State) : Prop := ∃ l, t.history = s.history ++ l ∧ ∀ x ∈ l, P x

section
variable {P : Transaction → Prop} {s : State}

theorem records_of_history_eq {t : State} (h : t.history = s.history) : Records P s t := ⟨[], by simp [h], nofun⟩

theorem Records.trans {u t : State} (hu : Records P s u) (ht : Records P u t) : Records P s t := by
  obtain ⟨l, hl, hP⟩ := hu
  obtain ⟨l', hl', hP'⟩ := ht
  exact ⟨l ++ l', by rw [hl', hl, List.append_assoc], List.forall_mem_append.mpr ⟨hP, hP'⟩⟩

theorem Issued.records {l : List Transaction} {u : State} (hi : Issued s l u) (hP : ∀ x ∈ l, P x) : Records P s u :=
  ⟨l, hi.history, hP⟩

theorem transact_records {q : BusRequest} (hq : ∀ a, P (historyEntry q a)) : Records P s (transact q s).2 :=
  (transact_issued q s).records (List.forall_mem_singleton.mpr (hq _))

/-- A transaction, then what the operation does next, under the same configuration. -/
theorem onBus_records {q : BusRequest} {next : List Byte → State → State} (hq : ∀ a, P (historyEntry q a))
    (hnext : ∀ bytes u, u.cfg = s.cfg → Records P u (next bytes u)) : Records P s (onBus q s next) := by
  have ht : Records P s (transact q s).2 := transact_records hq
  rcases onBus_cases q s next with ⟨-, -, he⟩ | ⟨bytes, -, -, he⟩
  · rw [he]; exact ht
  · rw [he]; exact ht.trans (hnext bytes _ (transact_cfg q s))

/-- The PROM read addresses the pressure/temperature sensor alone (40_calibration_conversion.md R103). -/
theorem readCalibration_records {next : Coeffs → State → State} (hP : ∀ x, x.addr = s.cfg.ptAddr → P x)
    (hnext : ∀ c u, (next c u).history = u.history) : Records P s (readCalibration s next) := by
  unfold readCalibration
  rcases promWords_cases s.cfg.promReadCount 0 s with ⟨l, u, hi, -, -, ha, he⟩ | ⟨l, u, ws, hi, -, -, ha, -, he⟩
  · rw [he]; exact hi.records fun x hx => hP x (ha x hx)
  · rw [he]
    exact (hi.records fun x hx => hP x (ha x hx)).trans (records_of_history_eq (hnext ..))

/-! ## One-byte writes to the PWM controller -/

/-- A one-byte write to the PWM controller, successful or not (20_memory.md R58). -/
def PwmByte (p : Params) (x : Transaction) : Prop := ∃ reg v ok, x = ⟨.W, p.pwmAddr, some reg, [v], ok⟩

theorem historyEntry_pwmByte (p : Params) (reg v : Byte) (a : Option (List Byte)) :
    PwmByte p (historyEntry (.write p.pwmAddr reg [v]) a) := ⟨reg, v, _, rfl⟩

theorem pwmEntries_pwmByte {p : Params} {ws : List (Byte × Byte)} {oks : List Bool} :
    ∀ x ∈ pwmEntries p ws oks, PwmByte p x := by
  intro x hx
  obtain ⟨y, -, rfl⟩ := List.mem_map.mp hx
  exact ⟨_, _, _, rfl⟩

theorem writeSteps_records (ws : List (Byte × Byte)) (s : State) {next : State → State}
    (hnext : ∀ u, (next u).history = u.history) : Records (PwmByte s.cfg) s (writeSteps ws s next) := by
  rcases writeSteps_cases ws s with ⟨u, hi, he⟩ | ⟨k, u, -, hi, he⟩
  · rw [he]; exact (hi.records pwmEntries_pwmByte).trans (records_of_history_eq (hnext u))
  · rw [he]; exact hi.records pwmEntries_pwmByte

/-- Also with a channel out of range, which writes nothing. -/
theorem setChannel_records (ch : Nat) (duty : Byte) (s : State) :
    Records (PwmByte s.cfg) s (setChannel ch duty s).2 := by
  by_cases h : 7 < ch
  · rw [setChannel_out ch duty s h]; exact records_of_history_eq rfl
  · rw [(setChannel_in ch duty s (by omega)).1]; exact transact_records (historyEntry_pwmByte _ _ _)

theorem writeChannels_records (ds : List (Nat × Byte)) (s : State) :
    Records (PwmByte s.cfg) s (writeChannels ds s).state := by
  induction ds generalizing s with
  | nil => exact records_of_history_eq rfl
  | cons x ds ih =>
    have hrest := ih (setChannel x.1 x.2 s).2
    rw [setChannel_cfg] at hrest
    exact (setChannel_records x.1 x.2 s).trans hrest

theorem applyAndRespond_records (b : Byte) (m : Half) (s : State) :
    Records (PwmByte s.cfg) s (applyAndRespond b m s) := by
  unfold applyAndRespond
  by_cases hm : m = 0
  · rw [hm, applyMix_zero]; exact records_of_history_eq rfl
  · by_cases hs : s.animState = .idle
    · rw [applyMix_idle b hm hs]; exact writeChannels_records _ s
    · rw [applyMix_gated b hm hs]; exact records_of_history_eq rfl

end

/-! ## What every operation adds to H -/

/-- What the block puts on the bus: a transaction with a sensor, or a one-byte write to the PWM controller. -/
def SensorOrPwmByte (p : Params) (x : Transaction) : Prop := x.addr ∈ [p.ptAddr, p.rhAddr, p.slAddr] ∨ PwmByte p x

theorem historyEntry_sensor {p : Params} {q : BusRequest} (hq : requestAddr q ∈ [p.ptAddr, p.rhAddr, p.slAddr])
    (a : Option (List Byte)) : SensorOrPwmByte p (historyEntry q a) :=
  .inl (by rwa [historyEntry_addr])

/-- If the outcome of an operation in `s` is a next state, only block transactions were added to H. -/
def RecordsSensorOrPwmByte (s : State) (o : Host.Outcome State Fault Refusal) : Prop :=
  ∀ t, o = .next t → Records (SensorOrPwmByte s.cfg) s t

section
variable {s t : State}

theorem recordsSensorOrPwmByte_next (h : Records (SensorOrPwmByte s.cfg) s t) : RecordsSensorOrPwmByte s (.next t) := by
  rintro _ ⟨⟩
  exact h

/-- An operation without bus access. -/
theorem recordsSensorOrPwmByte_quiet (h : t.history = s.history) : RecordsSensorOrPwmByte s (.next t) :=
  recordsSensorOrPwmByte_next (records_of_history_eq h)

/-- A driver operation. -/
theorem recordsSensorOrPwmByte_pwm (h : Records (PwmByte s.cfg) s t) : RecordsSensorOrPwmByte s (.next t) := by
  obtain ⟨l, hl, hP⟩ := h
  exact recordsSensorOrPwmByte_next ⟨l, hl, fun x hx => .inr (hP x hx)⟩

/-- One transaction with a sensor, then what the operation does next. -/
theorem onBus_sensor {q : BusRequest} {next : List Byte → State → State}
    (hq : requestAddr q ∈ [s.cfg.ptAddr, s.cfg.rhAddr, s.cfg.slAddr])
    (hnext : ∀ bytes u, u.cfg = s.cfg → Records (SensorOrPwmByte u.cfg) u (next bytes u)) :
    Records (SensorOrPwmByte s.cfg) s (onBus q s next) :=
  onBus_records (historyEntry_sensor hq) fun bytes u hu => hu ▸ hnext bytes u hu

end

theorem readCalibration_recordsSensorOrPwmByte (s : State) {next : Coeffs → State → State}
    (hnext : ∀ c u, (next c u).history = u.history) : RecordsSensorOrPwmByte s (.next (readCalibration s next)) :=
  recordsSensorOrPwmByte_next (readCalibration_records (fun x hx => .inl (by simp [hx])) hnext)

theorem execPtCalvfy_records (s : State) : RecordsSensorOrPwmByte s (execPtCalvfy s) := by
  apply recordsSensorOrPwmByte_quiet
  split
  · rfl
  · split <;> rfl

theorem execPtInit_records (s : State) : RecordsSensorOrPwmByte s (execPtInit s) :=
  readCalibration_recordsSensorOrPwmByte s fun c u => by split <;> rfl

theorem execPtTemp_records (s : State) : RecordsSensorOrPwmByte s (execPtTemp s) := by
  apply recordsSensorOrPwmByte_next
  split
  · exact onBus_sensor (by simp [requestAddr]) fun _ u _ =>
      onBus_sensor (by simp [requestAddr]) fun _ _ _ => records_of_history_eq rfl
  · exact records_of_history_eq rfl

theorem execRhRead_records (s : State) : RecordsSensorOrPwmByte s (execRhRead s) :=
  recordsSensorOrPwmByte_next <| onBus_sensor (by simp [requestAddr]) fun _ u _ =>
    onBus_sensor (by simp [requestAddr]) fun _ _ _ => records_of_history_eq rfl

theorem execSlInit_records (s : State) : RecordsSensorOrPwmByte s (execSlInit s) := by
  refine recordsSensorOrPwmByte_next <| onBus_sensor (by simp [requestAddr]) fun bytes u _ => ?_
  split
  · exact onBus_sensor (by simp [requestAddr]) fun _ _ _ => records_of_history_eq rfl
  · exact records_of_history_eq rfl

theorem execSlTemp_records (s : State) : RecordsSensorOrPwmByte s (execSlTemp s) :=
  recordsSensorOrPwmByte_next <| onBus_sensor (by simp [requestAddr]) fun _ _ _ => records_of_history_eq rfl

theorem execPwmSetgrp_records (a d : Byte) (s : State) : RecordsSensorOrPwmByte s (execPwmSetgrp a d s) := by
  apply recordsSensorOrPwmByte_pwm
  split
  · exact records_of_history_eq rfl
  · exact writeChannels_records _ s

theorem execPwmPct2duty_records (p : Byte) (s : State) : RecordsSensorOrPwmByte s (execPwmPct2duty p s) := by
  apply recordsSensorOrPwmByte_quiet
  split <;> rfl

theorem execLampLoad_records (b : Byte) (m : Half) (s : State) : RecordsSensorOrPwmByte s (execLampLoad b m s) := by
  apply recordsSensorOrPwmByte_quiet
  split <;> rfl

theorem execLampSetct_records (m : Half) (s : State) : RecordsSensorOrPwmByte s (execLampSetct m s) := by
  apply recordsSensorOrPwmByte_pwm
  split
  · exact records_of_history_eq rfl
  · exact applyAndRespond_records _ m { s with lampMireds := m }

theorem execAnimTick_records (s : State) : RecordsSensorOrPwmByte s (execAnimTick s) := by
  apply recordsSensorOrPwmByte_pwm
  split
  · exact writeChannels_records _ { s with phase := s.phase + s.freq }
  · exact records_of_history_eq rfl

theorem execAnimStep_records (s : State) : RecordsSensorOrPwmByte s (execAnimStep s) := by
  unfold execAnimStep
  split
  · exact recordsSensorOrPwmByte_quiet rfl
  · split
    · nofun
    · next frame _ =>
      have hframe : Records (PwmByte s.cfg) s (applyFrame frame.levels s).state := writeChannels_records _ s
      dsimp only
      split
      · exact recordsSensorOrPwmByte_pwm hframe
      · exact recordsSensorOrPwmByte_pwm hframe

theorem exec_recordsSensorOrPwmByte (i : Instr) (s : State) : RecordsSensorOrPwmByte s (exec i s) := by
  cases i with
  | nop | rdreg r | animBoot | animBrinit f | animBren | animStop | animBlink => exact recordsSensorOrPwmByte_quiet rfl
  | ptCalrd => exact readCalibration_recordsSensorOrPwmByte s fun _ _ => rfl
  | ptCalvfy => exact execPtCalvfy_records s
  | ptInit => exact execPtInit_records s
  | ptTemp => exact execPtTemp_records s
  | rhRead => exact execRhRead_records s
  | slInit => exact execSlInit_records s
  | slTemp => exact execSlTemp_records s
  | pwmInit => exact recordsSensorOrPwmByte_pwm (writeSteps_records _ { s with pwmEn := true } fun _ => rfl)
  | pwmSetch a d => exact recordsSensorOrPwmByte_pwm (setChannel_records a.toNat d s)
  | pwmSetgrp a d => exact execPwmSetgrp_records a d s
  | pwmPct2duty p => exact execPwmPct2duty_records p s
  | lampLoad b m => exact execLampLoad_records b m s
  | lampSetb b =>
    exact recordsSensorOrPwmByte_pwm (applyAndRespond_records b s.lampMireds { s with lampBrightness := b })
  | lampSetct m => exact execLampSetct_records m s
  | mixApply b m => exact recordsSensorOrPwmByte_pwm (applyAndRespond_records b m s)
  | mixRecall => exact recordsSensorOrPwmByte_pwm (applyAndRespond_records s.lampBrightness s.lampMireds s)
  | animTick => exact execAnimTick_records s
  | animStep => exact execAnimStep_records s

/-! ## PWMDEV holds the last byte stored (20_memory.md R58) -/

/-- Under a checked configuration no sensor answers at PWM_ADDR, so what goes there is one byte. -/
theorem SensorOrPwmByte.bytes_length {p : Params} {x : Transaction} (h : SensorOrPwmByte p x) (hwf : p.wf = true)
    (hx : x.addr = p.pwmAddr) : x.bytes.length = 1 := by
  rcases h with hs | ⟨reg, v, ok, rfl⟩
  · obtain ⟨-, -, -, -, -, -, -, -, -, -, haddr, -⟩ := p.wf_iff.mp hwf
    have hnodup : ([p.ptAddr, p.rhAddr, p.slAddr].concat p.pwmAddr).Nodup := p.addressesDistinct_iff.mp haddr
    exact absurd (hx ▸ hs) ((List.nodup_concat _ _).mp hnodup).1
  · rfl

/-- After an operation H has grown by some transactions, and each register reads as these and its old contents say. -/
theorem Performed.read {i : Instr} {s t : State} (h : Performed i s t) : ∃ l, t.history = s.history ++ l ∧
    ∀ r, Memory.read t.pwmdev r = (lastStored s.cfg r l).or (Memory.read s.pwmdev r) := by
  obtain ⟨w, hw, l, u, st, v, hi, rfl⟩ := h
  refine ⟨l, by rw [respond_history, hi.history, hw.history], fun r => ?_⟩
  rw [respond_pwmdev, hi.read, hw.cfg, hw.pwmdev]

/-- Settles O14: the new transactions determine the registers, and each of them is with a sensor or one byte long. -/
theorem deviceHoldsLastByteStored : Obligations.DeviceHoldsLastByteStored := by
  intro i s t hwf h
  obtain ⟨l, hl, hread⟩ := (exec_performed h).read
  obtain ⟨l', hl', hP⟩ := exec_recordsSensorOrPwmByte i s t h
  obtain rfl : l = l' := List.append_cancel_left (hl.symm.trans hl')
  exact ⟨l, hl, hread, fun x hx _ ha => (hP x hx).bytes_length hwf ha⟩

/-! ## With another past -/

/-- The state with `h` in front of its history. -/
def State.prepend (h : List Transaction) (s : State) : State := { s with history := h ++ s.history }

@[simp] theorem prepend_cfg (h : List Transaction) (s : State) : (s.prepend h).cfg = s.cfg := rfl
@[simp] theorem prepend_cal (h : List Transaction) (s : State) : (s.prepend h).cal = s.cal := rfl
@[simp] theorem prepend_calValid (h : List Transaction) (s : State) : (s.prepend h).calValid = s.calValid := rfl
@[simp] theorem prepend_animState (h : List Transaction) (s : State) : (s.prepend h).animState = s.animState := rfl
@[simp] theorem prepend_seqIdx (h : List Transaction) (s : State) : (s.prepend h).seqIdx = s.seqIdx := rfl
@[simp] theorem busAnswer_prepend (h : List Transaction) (q : BusRequest) (s : State) :
    busAnswer q (s.prepend h) = busAnswer q s := rfl
@[simp] theorem runningFrames_prepend (h : List Transaction) (s : State) :
    runningFrames (s.prepend h) = runningFrames s := rfl

/-- With an empty past, `h` in front is all the history. -/
theorem prepend_of_history_nil (h : List Transaction) (s : State) :
    State.prepend h { s with history := [] } = { s with history := h } := by
  rw [State.prepend, List.append_nil]

/-- The outcome with `h` in front of the history of its next state. -/
def prependOutcome (h : List Transaction) : Host.Outcome State Fault Refusal → Host.Outcome State Fault Refusal
  | .next t => .next (t.prepend h)
  | .fault r => .fault r
  | .refused r => .refused r

theorem prependOutcome_eq_next {h : List Transaction} {o : Host.Outcome State Fault Refusal} {t : State}
    (ho : prependOutcome h o = .next t) : ∃ u, o = .next u ∧ t = u.prepend h := by
  cases o with
  | next u => cases ho; exact ⟨u, rfl, rfl⟩
  | fault r => cases ho
  | refused r => cases ho

section
variable (h : List Transaction)

/-- The one operation that writes H appends to it, and the oracle does not look at it (20_memory.md R51, R57). -/
theorem transact_prepend (q : BusRequest) (s : State) :
    transact q (s.prepend h) = ((transact q s).1, (transact q s).2.prepend h) := by
  refine Prod.ext rfl (State.ext rfl rfl rfl rfl rfl rfl rfl rfl rfl rfl rfl ?_ rfl rfl rfl rfl rfl)
  exact List.append_assoc h s.history _

theorem onBus_prepend (q : BusRequest) (s : State) {next : List Byte → State → State}
    (hnext : ∀ bytes u, next bytes (u.prepend h) = (next bytes u).prepend h) :
    onBus q (s.prepend h) next = (onBus q s next).prepend h := by
  rw [onBus, transact_prepend, busAnswer_prepend, onBus]
  split
  · rfl
  · exact hnext _ _

/-! ### The driver -/

theorem setChannel_prepend (ch : Nat) (duty : Byte) (s : State) :
    setChannel ch duty (s.prepend h) = ((setChannel ch duty s).1, (setChannel ch duty s).2.prepend h) := by
  unfold setChannel
  split
  · rfl
  · dsimp only
    rw [transact_prepend]
    rfl

theorem writeChannels_prepend (ds : List (Nat × Byte)) (s : State) :
    writeChannels ds (s.prepend h) = { writeChannels ds s with state := (writeChannels ds s).state.prepend h } := by
  induction ds generalizing s with
  | nil => rfl
  | cons x ds ih => simp only [writeChannels, setChannel_prepend, ih]

theorem setGroup_prepend (chs : List Nat) (duty : Byte) (s : State) :
    setGroup chs duty (s.prepend h) = { setGroup chs duty s with state := (setGroup chs duty s).state.prepend h } :=
  writeChannels_prepend h _ s

theorem writeSteps_prepend (ws : List (Byte × Byte)) (s : State) {next : State → State}
    (hnext : ∀ u, next (u.prepend h) = (next u).prepend h) :
    writeSteps ws (s.prepend h) next = (writeSteps ws s next).prepend h := by
  induction ws generalizing s with
  | nil => exact hnext s
  | cons w ws ih => exact onBus_prepend h _ s fun _ u => ih u

/-! ### The sensors -/

theorem promWord_prepend (i : Nat) (s : State) {next : Half → State → State}
    (hnext : ∀ w u, next w (u.prepend h) = (next w u).prepend h) :
    promWord i (s.prepend h) next = (promWord i s next).prepend h :=
  onBus_prepend h (.write s.cfg.ptAddr (promCmd s.cfg i) []) s fun _ u =>
    onBus_prepend h (.read u.cfg.ptAddr 2) u fun bytes u => hnext (BitVec.ofNat 16 (beNat bytes)) u

theorem promWords_prepend (n i : Nat) (s : State) {next : List Half → State → State}
    (hnext : ∀ ws u, next ws (u.prepend h) = (next ws u).prepend h) :
    promWords n i (s.prepend h) next = (promWords n i s next).prepend h := by
  induction n generalizing i s next with
  | zero => exact hnext [] s
  | succ n ih => exact promWord_prepend h i s fun w u => ih (i + 1) u fun ws u => hnext (w :: ws) u

theorem readCalibration_prepend (s : State) {next : Coeffs → State → State}
    (hnext : ∀ c u, next c (u.prepend h) = (next c u).prepend h) :
    readCalibration (s.prepend h) next = (readCalibration s next).prepend h :=
  promWords_prepend h _ 0 s fun ws u =>
    hnext (Coeffs.ofWords ws) { u with cal := some (Coeffs.ofWords ws), calValid := false }

/-! ### The mixer -/

theorem applyMix_prepend (b : Byte) (m : Half) (s : State) : applyMix b m (s.prepend h) =
    ((applyMix b m s).1, (applyMix b m s).2.1, (applyMix b m s).2.2.prepend h) := by
  by_cases hm : m = 0
  · rw [hm, applyMix_zero, applyMix_zero]
  · by_cases hs : s.animState = .idle
    · rw [applyMix_idle b hm hs, applyMix_idle (s := s.prepend h) b hm hs,
        writeChannels_prepend]
      rfl
    · rw [applyMix_gated b hm hs, applyMix_gated (s := s.prepend h) b hm hs]
      rfl

theorem applyAndRespond_prepend (b : Byte) (m : Half) (s : State) :
    applyAndRespond b m (s.prepend h) = (applyAndRespond b m s).prepend h := by
  unfold applyAndRespond
  rw [applyMix_prepend]
  rfl

/-! ### Every operation -/

/-- The operation `op` in `s` does the same with `h` in front of the history. -/
def IgnoresPast (op : State → Host.Outcome State Fault Refusal) : Prop :=
  ∀ s, op (s.prepend h) = prependOutcome h (op s)

theorem ignoresPast_next {op : State → State} (hop : ∀ s, op (s.prepend h) = (op s).prepend h) :
    IgnoresPast h fun s => .next (op s) := fun s => congrArg Host.Outcome.next (hop s)

theorem execPtCalvfy_ignoresPast : IgnoresPast h execPtCalvfy := by
  refine ignoresPast_next h fun s => ?_
  rw [prepend_cal]
  split
  · rfl
  · split <;> rfl

theorem execPtInit_ignoresPast : IgnoresPast h execPtInit :=
  ignoresPast_next h fun s => readCalibration_prepend h s fun c u => by split <;> rfl

theorem execPtTemp_ignoresPast : IgnoresPast h execPtTemp := by
  refine ignoresPast_next h fun s => ?_
  rw [prepend_calValid, prepend_cal]
  split
  · exact onBus_prepend h _ s fun _ u => onBus_prepend h _ u fun _ _ => rfl
  · rfl

theorem execSlInit_ignoresPast : IgnoresPast h execSlInit := by
  refine ignoresPast_next h fun s => onBus_prepend h _ s fun bytes u => ?_
  rw [prepend_cfg]
  split
  · exact onBus_prepend h _ u fun _ _ => rfl
  · rfl

theorem execPwmInit_ignoresPast : IgnoresPast h execPwmInit :=
  ignoresPast_next h fun s => writeSteps_prepend h _ { s with pwmEn := true } fun _ => rfl

theorem execPwmSetch_ignoresPast (a d : Byte) : IgnoresPast h (execPwmSetch a d) :=
  ignoresPast_next h fun s => by rw [setChannel_prepend]; rfl

theorem execPwmSetgrp_ignoresPast (a d : Byte) : IgnoresPast h (execPwmSetgrp a d) := by
  refine ignoresPast_next h fun s => ?_
  rw [prepend_cfg]
  split
  · rfl
  · dsimp only
    rw [setGroup_prepend]
    rfl

theorem execPwmPct2duty_ignoresPast (p : Byte) : IgnoresPast h (execPwmPct2duty p) :=
  ignoresPast_next h fun s => by split <;> rfl

theorem execLampLoad_ignoresPast (b : Byte) (m : Half) : IgnoresPast h (execLampLoad b m) :=
  ignoresPast_next h fun s => by split <;> rfl

theorem execLampSetct_ignoresPast (m : Half) : IgnoresPast h (execLampSetct m) := by
  refine ignoresPast_next h fun s => ?_
  split
  · rfl
  · exact applyAndRespond_prepend h s.lampBrightness m { s with lampMireds := m }

theorem execAnimTick_ignoresPast : IgnoresPast h execAnimTick := by
  refine ignoresPast_next h fun s => ?_
  rw [prepend_animState]
  split
  · have hgroup := setGroup_prepend h Config.allCh (breathDuty (s.phase + s.freq)) { s with phase := s.phase + s.freq }
    exact congrArg (fun r => respond r.status (tickValue (breathDuty (s.phase + s.freq))) r.state) hgroup
  · rfl

theorem execAnimStep_ignoresPast : IgnoresPast h execAnimStep := by
  intro s
  unfold execAnimStep
  rw [runningFrames_prepend, prepend_seqIdx]
  split
  · rfl
  · split
    · rfl
    · dsimp only
      rw [applyFrame, writeChannels_prepend]
      split <;> rfl

theorem exec_ignoresPast (i : Instr) : IgnoresPast h (exec i) := by
  intro s
  cases i with
  | nop | rdreg r | animBoot | animBrinit f | animBren | animStop | animBlink => rfl
  | ptCalrd => exact congrArg Host.Outcome.next (readCalibration_prepend h s fun _ _ => rfl)
  | ptCalvfy => exact execPtCalvfy_ignoresPast h s
  | ptInit => exact execPtInit_ignoresPast h s
  | ptTemp => exact execPtTemp_ignoresPast h s
  | rhRead => exact congrArg Host.Outcome.next (onBus_prepend h _ s fun _ u => onBus_prepend h _ u fun _ _ => rfl)
  | slInit => exact execSlInit_ignoresPast h s
  | slTemp => exact congrArg Host.Outcome.next (onBus_prepend h _ s fun _ _ => rfl)
  | pwmInit => exact execPwmInit_ignoresPast h s
  | pwmSetch a d => exact execPwmSetch_ignoresPast h a d s
  | pwmSetgrp a d => exact execPwmSetgrp_ignoresPast h a d s
  | pwmPct2duty p => exact execPwmPct2duty_ignoresPast h p s
  | lampLoad b m => exact execLampLoad_ignoresPast h b m s
  | lampSetb b =>
    exact congrArg Host.Outcome.next (applyAndRespond_prepend h b s.lampMireds { s with lampBrightness := b })
  | lampSetct m => exact execLampSetct_ignoresPast h m s
  | mixApply b m => exact congrArg Host.Outcome.next (applyAndRespond_prepend h b m s)
  | mixRecall => exact congrArg Host.Outcome.next (applyAndRespond_prepend h s.lampBrightness s.lampMireds s)
  | animTick => exact execAnimTick_ignoresPast h s
  | animStep => exact execAnimStep_ignoresPast h s

end

/-- An operation from any past is the one from an empty past, with that past put in front. -/
theorem exec_withHistory (i : Instr) (s : State) (h : List Transaction) :
    exec i { s with history := h } = prependOutcome h (exec i { s with history := [] }) := by
  rw [← exec_ignoresPast, prepend_of_history_nil]

/-- Settles O18: both outcomes are the one from an empty past, whose history is what the operation appends. -/
theorem historyIsNeverRead : Obligations.HistoryIsNeverRead := by
  intro i s t l h he hl
  obtain ⟨u, hu, rfl⟩ := prependOutcome_eq_next ((exec_withHistory i s s.history).symm.trans he)
  obtain rfl : u.history = l := List.append_cancel_left hl
  rw [exec_withHistory, hu]
  rfl

end Sys2Proof.Machine

/-! SUPPORT. The event words of 30_encoding.md: a format as the number of its operand bits, decoding and encoding as
inverses of each other (O1), the legal words as the rows of the opcode table (O2), the words the spec writes out (O3)
and the pseudo-operations (O4). -/

namespace Sys2Proof

open Laws

/-! ## The fixed bits of a word as a number -/

/-- How many low bits of a format are operand bits; every bit above them is fixed (R81). -/
def Format.operandBits : Format → Nat
  | .N => 0
  | .B => 8
  | .H => 16
  | .P => 16
  | .L => 24
  | .W => 24

theorem Format.mask_eq (fmt : Format) : fmt.mask = BitVec.allOnes 32 <<< fmt.operandBits := by
  cases fmt <;> rfl

/-- Masking a word to its fixed bits clears the operand bits. -/
theorem and_mask_toNat (w : Word) (fmt : Format) :
    (w &&& fmt.mask).toNat = w.toNat / 2 ^ fmt.operandBits * 2 ^ fmt.operandBits := by
  rw [fmt.mask_eq, ← BitVec.shiftLeft_ushiftRight, BitVec.toNat_shiftLeft, BitVec.toNat_ushiftRight, Nat.shiftLeft_eq,
    Nat.shiftRight_eq_div_pow]
  exact Nat.mod_eq_of_lt ((Nat.div_mul_le_self ..).trans_lt w.isLt)

/-- A word without operands is its opcode followed by 24 zero bits. -/
theorem wordN_toNat (op : Byte) : (wordN op).toNat = op.toNat * 2 ^ 24 := by
  rw [wordN, append_toNat, BitVec.toNat_ofNat, Nat.zero_mod, Nat.add_zero]

/-- R83's test of a word against `match` and `mask`: above the operand bits it holds the opcode and zeros. -/
theorem fixedBits_iff {w : Word} {fmt : Format} {op : Byte} : w &&& fmt.mask = op ++ 0#24 ↔
    w.toNat / 2 ^ fmt.operandBits * 2 ^ fmt.operandBits = op.toNat * 2 ^ 24 := by
  rw [← BitVec.toNat_inj, and_mask_toNat, ← wordN, wordN_toNat]

/-- In every format the opcode is fixed. -/
theorem opField_of_fixedBits {w : Word} {fmt : Format} {op : Byte} (h : w &&& fmt.mask = op ++ 0#24) :
    opField w = op := by
  rw [fixedBits_iff] at h
  apply BitVec.eq_of_toNat_eq
  rw [opField_toNat]
  cases fmt <;> simp only [Format.operandBits] at h <;> omega

/-! ## Decoding and encoding -/

/-- The word of a format with opcode `op` and the operand fields of `w` (R81, R82). -/
def Format.assemble (op : Byte) (w : Word) : Format → Word
  | .N => wordN op
  | .B => wordB op (imm8Field w)
  | .H => wordH op (imm16Field w)
  | .P => wordP op (aField w) (dField w)
  | .L => wordL op (bField w) (mField w)
  | .W => wordW op (fField w)

/-- The fields of each format are all its operand bits, in place. -/
theorem assemble_toNat (op : Byte) (w : Word) (fmt : Format) :
    (fmt.assemble op w).toNat = op.toNat * 2 ^ 24 + w.toNat % 2 ^ fmt.operandBits := by
  cases fmt with
  | N => rw [Format.assemble, wordN_toNat, Format.operandBits, pow_zero, Nat.mod_one, Nat.add_zero]
  | B => rw [Format.assemble, wordB_toNat, imm8Field_toNat, Format.operandBits]
  | H => rw [Format.assemble, wordH_toNat, imm16Field_toNat, Format.operandBits]
  | P =>
    rw [Format.assemble, wordP_toNat, aField_toNat, dField_toNat, Nat.add_left_cancel_iff, Format.operandBits]
    omega
  | L =>
    rw [Format.assemble, wordL_toNat, bField_toNat, mField_toNat, Nat.add_left_cancel_iff, Format.operandBits]
    omega
  | W => rw [Format.assemble, wordW_toNat, fField_toNat, Format.operandBits]

/-- A word with the right fixed bits is put together again from its fields. -/
theorem assemble_eq {w : Word} {fmt : Format} {op : Byte} (h : w &&& fmt.mask = op ++ 0#24) :
    fmt.assemble op w = w := by
  apply BitVec.eq_of_toNat_eq
  rw [assemble_toNat, ← fixedBits_iff.mp h, Nat.div_add_mod']

/-- Row by row of R84: encoding the row's operation uses the row's opcode, format and fields. -/
theorem encode_of_row {n : Nat} {w : Word} {fmt : Format} {i : Instr} (hr : opcodeRow n w = some (fmt, i)) :
    encode i = fmt.assemble (BitVec.ofNat 8 n) w := by
  unfold opcodeRow at hr
  split at hr <;> cases hr <;> rfl

/-- Everything the decoder accepts: the opcode names a row, and the fixed bits are that row's (R83, R86). -/
theorem decode_eq_ok_iff {w : Word} {i : Instr} : decode w = .ok i ↔
    ∃ fmt, opcodeRow (opField w).toNat w = some (fmt, i) ∧ w &&& fmt.mask = opField w ++ 0#24 := by
  constructor
  · intro h
    unfold decode at h
    split at h
    · cases h
    · next fmt j hr =>
      split at h
      · next hm => cases h; exact ⟨fmt, hr, hm⟩
      · cases h
  · rintro ⟨fmt, hr, hm⟩
    exact decode_of_row rfl hr hm

theorem decode_encode (i : Instr) : decode (encode i) = .ok i := by
  cases i with
  | rdreg r => exact DecodeEncode.rdreg r
  | pwmSetch a d => exact DecodeEncode.pwmSetch a d
  | pwmSetgrp a d => exact DecodeEncode.pwmSetgrp a d
  | pwmPct2duty p => exact DecodeEncode.pwmPct2duty p
  | lampLoad b m => exact DecodeEncode.lampLoad b m
  | lampSetb b => exact DecodeEncode.lampSetb b
  | lampSetct m => exact DecodeEncode.lampSetct m
  | mixApply b m => exact DecodeEncode.mixApply b m
  | animBrinit f => exact DecodeEncode.animBrinit f
  | _ => rfl

theorem encode_of_decode {w : Word} {i : Instr} (h : decode w = .ok i) : encode i = w := by
  obtain ⟨fmt, hr, hm⟩ := decode_eq_ok_iff.mp h
  rw [encode_of_row hr, BitVec.ofNat_toNat, BitVec.setWidth_eq]
  exact assemble_eq hm

/-- Settles O1: an accepted word is put together again from its fields, and an operation's word decodes to it. -/
theorem decodeInvertsEncode : Obligations.DecodeInvertsEncode :=
  fun _ i => ⟨encode_of_decode, fun h => h ▸ decode_encode i⟩

/-! ## Legal words -/

/-- The operands of a word do not choose its row. -/
theorem opcodeRow_format (n : Nat) (w w' : Word) : (opcodeRow n w).map Prod.fst = (opcodeRow n w').map Prod.fst := by
  unfold opcodeRow
  split <;> rfl

/-- A word is legal when its opcode has a format and the fixed bits are right (R83). -/
theorem decode_ok_iff {w : Word} : (∃ i, decode w = .ok i) ↔
    ∃ fmt, (opcodeRow (opField w).toNat 0).map Prod.fst = some fmt ∧ w &&& fmt.mask = opField w ++ 0#24 := by
  simp only [decode_eq_ok_iff, opcodeRow_format _ 0 w, Option.map_eq_some_iff, Prod.exists, exists_and_right,
    exists_eq_right]
  exact exists_comm.trans (exists_congr fun fmt => exists_and_right)

/-- The match and mask of every opcode the decoder knows, in rising order. -/
def decoderRows : List (Word × Word) :=
  (List.range 256).filterMap fun n =>
    (opcodeRow n 0).map fun r => (BitVec.ofNat 8 n ++ 0#24, r.1.mask)

/-- The opcode table of R84 is the decoder's. -/
theorem legalRows_eq_decoderRows : Machine.legalRows = decoderRows := by decide

/-- A row of the table is an opcode the decoder knows, and its format's mask. -/
theorem mem_legalRows_iff {row : Word × Word} : row ∈ Machine.legalRows ↔ ∃ (op : Byte) (fmt : Format),
    (opcodeRow op.toNat 0).map Prod.fst = some fmt ∧ row = (op ++ 0#24, fmt.mask) := by
  rw [legalRows_eq_decoderRows, decoderRows]
  simp only [List.mem_filterMap, List.mem_range, Option.map_eq_some_iff]
  constructor
  · rintro ⟨n, hn, r, hr, rfl⟩
    have hop : (BitVec.ofNat 8 n).toNat = n := by rw [BitVec.toNat_ofNat]; omega
    exact ⟨BitVec.ofNat 8 n, r.1, ⟨r, by rw [hop, hr], rfl⟩, rfl⟩
  · rintro ⟨op, fmt, ⟨r, hr, rfl⟩, rfl⟩
    exact ⟨op.toNat, op.isLt, r, hr, by rw [BitVec.ofNat_toNat, BitVec.setWidth_eq]⟩

theorem decode_ok_iff_legalRow (w : Word) :
    (∃ i, decode w = .ok i) ↔ ∃ row ∈ Machine.legalRows, w &&& row.2 = row.1 := by
  rw [decode_ok_iff]
  constructor
  · rintro ⟨fmt, hfmt, hm⟩
    exact ⟨_, mem_legalRows_iff.mpr ⟨opField w, fmt, hfmt, rfl⟩, hm⟩
  · rintro ⟨_, hrow, hm⟩
    obtain ⟨op, fmt, hfmt, rfl⟩ := mem_legalRows_iff.mp hrow
    obtain rfl := opField_of_fixedBits hm
    exact ⟨fmt, hfmt, hm⟩

/-- The opcodes of the reserved ranges have no row (R84). -/
theorem opcodeRow_reserved {n : Nat} (w : Word) (hn : (0x02 ≤ n ∧ n ≤ 0x0F) ∨ (0x17 ≤ n ∧ n ≤ 0x1F) ∨
    (0x24 ≤ n ∧ n ≤ 0x2F) ∨ (0x35 ≤ n ∧ n ≤ 0x3F) ∨ 0x47 ≤ n) : opcodeRow n w = none := by
  unfold opcodeRow
  split
  case h_26 => rfl
  all_goals omega

theorem decode_ne_ok_of_no_row {w : Word} (h : opcodeRow (w.toNat / 2 ^ 24) w = none) (i : Instr) :
    decode w ≠ .ok i := by
  intro hd
  obtain ⟨fmt, hr, -⟩ := decode_eq_ok_iff.mp hd
  rw [opField_toNat, h] at hr
  cases hr

/-- An illegal word is taken and answered, and that is all (R83). -/
theorem step_of_illegal {s : Machine.State} {src : Source} {w : Word} {rest : List Input} (hwf : s.cfg.wf = true)
    (hin : s.input = .event src w :: rest) (hw : ∀ i, decode w ≠ .ok i) :
    Machine.step s = .next (Machine.performIllegal (Machine.accept src rest s)) := by
  cases hd : decode w with
  | ok i => exact absurd hd (hw i)
  | error e => simp [Machine.step, hwf, hin, hd]

/-- Settles O2: the table is the decoder's rows, reserved opcodes have none, and an illegal word is only answered. -/
theorem legalWordsAreTableRows : Obligations.LegalWordsAreTableRows :=
  ⟨decode_ok_iff_legalRow, fun _ hop => decode_ne_ok_of_no_row (opcodeRow_reserved _ hop),
    fun _ _ _ _ hwf hin hw => step_of_illegal hwf hin hw⟩

/-! ## The spec's own words and the pseudo-operations -/

/-- Settles O3: the first eight words are the event words of the operations named, the last two are refused. -/
theorem specWordsDecode : Obligations.SpecWordsDecode :=
  ⟨decode_encode .nop, decode_encode (.rdreg 13), decode_encode .ptInit, decode_encode (.pwmSetch 3 255),
    decode_encode (.pwmSetgrp 1 128), decode_encode (.lampLoad 200 300), decode_encode (.lampSetct 454),
    decode_encode (.animBrinit 167772), by decide, by decide⟩

/-- Settles O4: the list of pseudo-operations is their type. -/
theorem pseudoOperationsExpand : Obligations.PseudoOperationsExpand := by
  refine ⟨fun _ => rfl, rfl, fun _ _ => rfl, fun q => ?_⟩
  cases q with
  | animBreath f => exact .inl ⟨f, rfl⟩
  | pwmOff => exact .inr (.inl rfl)
  | lampSet b m => exact .inr (.inr ⟨b, m, rfl⟩)

end Sys2Proof

/-! SUPPORT. What an operation returns (30_encoding.md R85): one response to the source being served (O13). -/

namespace Sys2Proof.Machine

/-! ## The writes of an operation leave the model's own fields alone -/

theorem Writes.input {i : Instr} {s w : State} (h : Writes i s w) : w.input = s.input := by cases h <;> rfl
theorem Writes.requester {i : Instr} {s w : State} (h : Writes i s w) : w.requester = s.requester := by
  cases h <;> rfl
theorem Writes.responses {i : Instr} {s w : State} (h : Writes i s w) : w.responses = s.responses := by
  cases h <;> rfl
theorem Writes.draws {i : Instr} {s w : State} (h : Writes i s w) : w.draws = s.draws := by cases h <;> rfl

/-- Settles O13: of an operation's writes, transactions and response, only the response is delivered, and only the
transactions reach H, each drawn once. -/
theorem oneResponsePerOperation : Obligations.OneResponsePerOperation := by
  intro i s t h
  obtain ⟨w, hw, l, u, st, v, hi, rfl⟩ := exec_performed h
  refine ⟨⟨st, v, ?_⟩, ?_, ?_, ?_, l, ?_, ?_⟩
  · rw [respond_responses, hi.responses, hi.requester, hw.responses, hw.requester]
  · rw [respond_input, hi.input, hw.input]
  · rw [respond_requester, hi.requester, hw.requester]
  · exact exec_cfg h
  · rw [respond_history, hi.history, hw.history]
  · rw [respond_draws, hi.draws, hw.draws]

end Sys2Proof.Machine

/-! SUPPORT. The arithmetic of 40_calibration_conversion.md: the two conversions as formulas with their ranges (O32,
O34), and the checksum as a linear map of the coefficient bits, so that what an error does to the comparison depends on
the error alone (O30). -/

namespace Sys2Proof.Machine

/-! ## The temperature (R111) -/

/-- trunc_div of 00_scope.md R12 is the quotient rounded toward zero. -/
theorem truncDiv_eq_tdiv (a b : Int) : truncDiv a b = a.tdiv b := by
  unfold truncDiv
  split
  · next ha => exact (Int.tdiv_eq_ediv_of_nonneg ha).symm
  · next ha =>
    have hneg : 0 ≤ -a := by omega
    rw [← Int.tdiv_eq_ediv_of_nonneg hneg, Int.neg_tdiv, Int.neg_neg]

/-- A value in the range of an s32 is what its image reads as (30_encoding.md R85). -/
theorem s32_toInt {v : Int} (hlo : -2 ^ 31 ≤ v) (hhi : v < 2 ^ 31) : (s32 v).toInt = v := by
  rw [s32, BitVec.toInt_ofInt]
  exact Int.bmod_eq_of_le (by omega) (by omega)

theorem convTemp_eq (raw c5 c6 : Nat) :
    convTemp raw c5 c6 = 2000 + Int.tdiv (((raw : Int) - (c5 : Int) * 256) * (c6 : Int)) (2 ^ 23) := by
  rw [convTemp, truncDiv_eq_tdiv]

/-- The range of the product dT * C6. -/
theorem dT_mul_c6_range {raw c5 c6 : Nat} (hraw : raw < 2 ^ 24) (h5 : c5 < 2 ^ 16) (h6 : c6 < 2 ^ 16) :
    -16776960 * 65535 ≤ ((raw : Int) - (c5 : Int) * 256) * (c6 : Int) ∧
      ((raw : Int) - (c5 : Int) * 256) * (c6 : Int) ≤ 16777215 * 65535 := by
  constructor
  · calc -16776960 * 65535 ≤ -16776960 * (c6 : Int) := by omega
      _ ≤ ((raw : Int) - (c5 : Int) * 256) * (c6 : Int) := Int.mul_le_mul_of_nonneg_right (by omega) (by omega)
  · calc ((raw : Int) - (c5 : Int) * 256) * (c6 : Int) ≤ 16777215 * (c6 : Int) :=
          Int.mul_le_mul_of_nonneg_right (by omega) (by omega)
      _ ≤ 16777215 * 65535 := by omega

theorem convTemp_range {raw c5 c6 : Nat} (hraw : raw < 2 ^ 24) (h5 : c5 < 2 ^ 16) (h6 : c6 < 2 ^ 16) :
    -129068 ≤ convTemp raw c5 c6 ∧ convTemp raw c5 c6 ≤ 133069 := by
  obtain ⟨hlo, hhi⟩ := dT_mul_c6_range hraw h5 h6
  rw [convTemp, truncDiv]
  split <;> omega

/-- Settles O32: the range of the result lies within that of an s32. -/
theorem temperatureConversionExact : Obligations.TemperatureConversionExact := by
  intro raw c5 c6 hraw h5 h6
  obtain ⟨hlo, hhi⟩ := convTemp_range hraw h5 h6
  exact ⟨convTemp_eq raw c5 c6, by omega, ⟨hlo, hhi⟩, s32_toInt (by omega) (by omega)⟩

/-! ## The humidity (R121, R122) -/

/-- Clearing the two status bits of the 16-bit word rounds it down to a multiple of 4. -/
theorem clearStatusBits_toNat (x : Half) : (x &&& 0xFFFC#16).toNat = x.toNat / 4 * 4 := by
  have hmask : 0xFFFC#16 = BitVec.allOnes 16 <<< 2 := rfl
  rw [hmask, ← BitVec.shiftLeft_ushiftRight, BitVec.toNat_shiftLeft, BitVec.toNat_ushiftRight, Nat.shiftLeft_eq,
    Nat.shiftRight_eq_div_pow]
  exact Nat.mod_eq_of_lt ((Nat.div_mul_le_self ..).trans_lt x.isLt)

theorem convRh_eq (b0 b1 : Byte) :
    convRh b0 b1 = 125 * (((b0.toNat * 256 + b1.toNat) / 4 * 4 : Nat) : Int) - 393216 := by
  have hword : (BitVec.ofNat 16 (beNat [b0, b1])).toNat = b0.toNat * 256 + b1.toNat := by
    simp only [beNat, List.foldl_cons, List.foldl_nil, BitVec.toNat_ofNat]
    omega
  rw [convRh, clearStatusBits_toNat, hword]

/-- 393216 is no multiple of 500, so the humidity is never 0. -/
theorem convRh_range (b0 b1 : Byte) : -393216 ≤ convRh b0 b1 ∧ convRh b0 b1 ≤ 7798284 ∧ convRh b0 b1 ≠ 0 := by
  rw [convRh_eq]
  omega

/-- The status bits are the two low bits of the second byte. -/
theorem convRh_statusBits {b1 b1' : Byte} (b0 : Byte) (h : b1.toNat / 4 = b1'.toNat / 4) :
    convRh b0 b1 = convRh b0 b1' := by
  rw [convRh_eq, convRh_eq]
  omega

/-- Settles O34. -/
theorem humidityConversionExact : Obligations.HumidityConversionExact :=
  ⟨fun b0 b1 => ⟨convRh_eq b0 b1, convRh_range b0 b1⟩, fun b0 _ _ h => convRh_statusBits b0 h, by decide⟩

/-! ## The checksum's algorithm in numbers (R106) -/

/-- One shift step of R106 on the remainder as a number. -/
def crcShiftNat (r : Half) : Half :=
  if 2 ^ 15 ≤ r.toNat then BitVec.ofNat 16 (2 * r.toNat) ^^^ 0x3000#16 else BitVec.ofNat 16 (2 * r.toNat)

/-- One byte of R106, given as a number. -/
def crcByteNat (rem : Half) (b : Nat) : Half := crcShiftNat^[8] (rem ^^^ BitVec.ofNat 16 b)

/-- The 16 bytes of R106 as numbers. -/
def crcByteValues (c : Coeffs) : List Nat :=
  [c.c0.toNat / 256, c.c0.toNat % 256, c.c1.toNat / 256, c.c1.toNat % 256,
   c.c2.toNat / 256, c.c2.toNat % 256, c.c3.toNat / 256, c.c3.toNat % 256,
   c.c4.toNat / 256, c.c4.toNat % 256, c.c5.toNat / 256, c.c5.toNat % 256,
   c.c6.toNat / 256, c.c6.toNat % 256, c.c7.toNat / 256, 0]

theorem crcShift_eq_crcShiftNat : crcShift = crcShiftNat := by
  funext r
  have hshift : r <<< 1 = BitVec.ofNat 16 (2 * r.toNat) := by
    apply BitVec.eq_of_toNat_eq
    rw [BitVec.toNat_shiftLeft, BitVec.toNat_ofNat, Nat.shiftLeft_eq, Nat.mul_comm, Nat.pow_one]
  rw [crcShift, crcShiftNat, hshift, BitVec.msb_eq_decide]
  simp only [decide_eq_true_eq, Config.crcPoly]
  rfl

theorem crcByte_eq_crcByteNat (rem : Half) (b : Byte) : crcByte rem b = crcByteNat rem b.toNat := by
  rw [crcByteNat, ← crcShift_eq_crcShiftNat, BitVec.ofNat_toNat]
  rfl

theorem highByte_toNat (w : Half) : (w.extractLsb' 8 8).toNat = w.toNat / 256 := by
  rw [BitVec.extractLsb'_toNat, Nat.shiftRight_eq_div_pow]
  omega

theorem lowByte_toNat (w : Half) : (w.extractLsb' 0 8).toNat = w.toNat % 256 := by
  rw [BitVec.extractLsb'_toNat, Nat.shiftRight_zero]

/-- The 16 bytes of R106, written out. -/
theorem crcBytes_eq (c : Coeffs) : crcBytes c =
    [c.c0.extractLsb' 8 8, c.c0.extractLsb' 0 8, c.c1.extractLsb' 8 8, c.c1.extractLsb' 0 8,
     c.c2.extractLsb' 8 8, c.c2.extractLsb' 0 8, c.c3.extractLsb' 8 8, c.c3.extractLsb' 0 8,
     c.c4.extractLsb' 8 8, c.c4.extractLsb' 0 8, c.c5.extractLsb' 8 8, c.c5.extractLsb' 0 8,
     c.c6.extractLsb' 8 8, c.c6.extractLsb' 0 8, c.c7.extractLsb' 8 8, 0] := by
  have hhigh : (c.c7 &&& 0xFF00).extractLsb' 8 8 = c.c7.extractLsb' 8 8 :=
    BitVec.extractLsb'_and.trans BitVec.and_allOnes
  have hlow : (c.c7 &&& 0xFF00).extractLsb' 0 8 = 0 := BitVec.extractLsb'_and.trans BitVec.and_zero
  simp only [crcBytes, Coeffs.words, List.flatMap_cons, List.flatMap_nil, List.cons_append, List.nil_append, hhigh,
    hlow]

theorem crcBytes_toNat (c : Coeffs) : (crcBytes c).map BitVec.toNat = crcByteValues c := by
  simp only [crcBytes_eq, crcByteValues, List.map_cons, List.map_nil, highByte_toNat, lowByte_toNat]
  rfl

/-- crc4 is the algorithm of R106. -/
theorem crc4_eq (c : Coeffs) : crc4 c = ((crcByteValues c).foldl crcByteNat 0).extractLsb' 12 4 := by
  rw [crc4, ← crcBytes_toNat, List.foldl_map]
  exact congrArg (fun f => ((crcBytes c).foldl f 0).extractLsb' 12 4) (funext₂ crcByte_eq_crcByteNat)

/-! ## The checksum is linear -/

/-- Two coefficient sets, XORed bit by bit. -/
def Coeffs.xor (c d : Coeffs) : Coeffs :=
  ⟨c.c0 ^^^ d.c0, c.c1 ^^^ d.c1, c.c2 ^^^ d.c2, c.c3 ^^^ d.c3, c.c4 ^^^ d.c4, c.c5 ^^^ d.c5, c.c6 ^^^ d.c6,
    c.c7 ^^^ d.c7⟩

/-- The step is a shift and a XOR that depends on one bit alone. -/
theorem crcShift_eq (r : Half) : crcShift r = (r <<< 1) ^^^ (if r.msb then Config.crcPoly else 0) := by
  cases h : r.msb <;> simp [crcShift, h]

theorem crcShift_xor (a b : Half) : crcShift (a ^^^ b) = crcShift a ^^^ crcShift b := by
  have hpoly : (if (a ^^^ b).msb then Config.crcPoly else 0) =
      (if a.msb then Config.crcPoly else 0) ^^^ (if b.msb then Config.crcPoly else 0) := by
    rw [BitVec.msb_xor]
    cases a.msb <;> cases b.msb <;> rfl
  rw [crcShift_eq, crcShift_eq, crcShift_eq, hpoly, BitVec.shiftLeft_xor_distrib]
  ac_rfl

theorem crcByte_xor (a b : Half) (x y : Byte) : crcByte (a ^^^ b) (x ^^^ y) = crcByte a x ^^^ crcByte b y := by
  have hinput : a ^^^ b ^^^ (x ^^^ y).setWidth 16 = (a ^^^ x.setWidth 16) ^^^ (b ^^^ y.setWidth 16) := by
    rw [BitVec.setWidth_xor]
    ac_rfl
  simp only [crcByte, hinput, crcShift_xor]

theorem foldl_crcByte_xor {xs ys : List Byte} (h : xs.length = ys.length) (a b : Half) :
    (List.zipWith (· ^^^ ·) xs ys).foldl crcByte (a ^^^ b) = xs.foldl crcByte a ^^^ ys.foldl crcByte b := by
  induction xs generalizing ys a b with
  | nil => cases ys with
    | nil => rfl
    | cons y ys => cases h
  | cons x xs ih => cases ys with
    | nil => cases h
    | cons y ys =>
      rw [List.zipWith_cons_cons, List.foldl_cons, crcByte_xor, ih (Nat.succ.inj h), List.foldl_cons, List.foldl_cons]

theorem crcBytes_xor (c d : Coeffs) :
    crcBytes (c.xor d) = List.zipWith (· ^^^ ·) (crcBytes c) (crcBytes d) := by
  simp only [crcBytes_eq, Coeffs.xor, BitVec.extractLsb'_xor, List.zipWith_cons_cons, List.zipWith_nil_right]
  rfl

theorem crc4_xor (c d : Coeffs) : crc4 (c.xor d) = crc4 c ^^^ crc4 d := by
  have hlength : (crcBytes c).length = (crcBytes d).length := by rw [crcBytes_eq, crcBytes_eq]; rfl
  have hfold := foldl_crcByte_xor hlength 0 0
  rw [crc4, crcBytes_xor, crc4, crc4, ← BitVec.extractLsb'_xor, ← hfold]
  rfl

/-! ## What an error does to the comparison (R107) -/

theorem checksumOk_iff (c : Coeffs) : checksumOk c = true ↔ crc4 c = c.c7.extractLsb' 0 4 := beq_iff_eq

/-- A set that passes and an error added to it: the comparison is that of the error alone. -/
theorem checksumOk_xor {c : Coeffs} (hc : checksumOk c = true) (d : Coeffs) :
    checksumOk (c.xor d) = true ↔ checksumOk d = true := by
  rw [checksumOk_iff] at hc
  rw [checksumOk_iff, checksumOk_iff, crc4_xor, hc, Coeffs.xor, BitVec.extractLsb'_xor, BitVec.xor_right_inj]

/-- The error of one bit: the coefficient set with no other bit set. -/
def bitError (w b : Nat) : Coeffs := flipBit ⟨0, 0, 0, 0, 0, 0, 0, 0⟩ w b

theorem flipBit_eq_xor (c : Coeffs) {w : Nat} (hw : w < 8) (b : Nat) : flipBit c w b = c.xor (bitError w b) := by
  interval_cases w <;>
    simp [flipBit, bitError, Coeffs.xor, Coeffs.ofWords, Coeffs.words, Coeffs.get]

/-- Of the 128 single-bit errors, exactly those of C[7][7:4] pass. -/
theorem checksumOk_bitError : ∀ w < 8, ∀ b < 16, (checksumOk (bitError w b) = true ↔ w = 7 ∧ 4 ≤ b ∧ b ≤ 7) := by
  decide +kernel

theorem checksumOk_flipBit {c : Coeffs} {w b : Nat} (hc : checksumOk c = true) (hw : w < 8) (hb : b < 16) :
    checksumOk (flipBit c w b) = true ↔ w = 7 ∧ 4 ≤ b ∧ b ≤ 7 := by
  rw [flipBit_eq_xor c hw, checksumOk_xor hc, checksumOk_bitError w hw b hb]

/-- The last low byte enters the checksum as 0, whatever it is (R106). -/
theorem crc4_lastLowByte (c : Coeffs) {last : Half} (h : last.extractLsb' 8 8 = c.c7.extractLsb' 8 8) :
    crc4 { c with c7 := last } = crc4 c := by
  rw [crc4, crc4, crcBytes_eq, crcBytes_eq, h]

/-- The application note's vector in V40-1 (95_test_vectors.md), one value for its four last low bytes. -/
theorem crc4_exampleVector : ∀ last ∈ [0x4546, 0x450B, 0x4500, 0x45FF],
    crc4 ⟨0x3132, 0x3334, 0x3536, 0x3738, 0x3940, 0x4142, 0x4344, last⟩ = 0xB := by
  have hvalue : crc4 ⟨0x3132, 0x3334, 0x3536, 0x3738, 0x3940, 0x4142, 0x4344, 0x4500⟩ = 0xB := by decide +kernel
  intro last hmem
  refine (crc4_lastLowByte ⟨0x3132, 0x3334, 0x3536, 0x3738, 0x3940, 0x4142, 0x4344, 0x4500⟩ ?_).trans hvalue
  simp only [List.mem_cons, List.not_mem_nil, or_false] at hmem
  rcases hmem with rfl | rfl | rfl | rfl <;> rfl

/-- The other values of V40-1. -/
theorem crc4_values :
    crc4 ⟨0x3132, 0x3334, 0x3536, 0x3738, 0x3940, 0x82B8, 0x6E98, 0x4502⟩ = 0x2 ∧
    crc4 ⟨0x3132, 0x3334, 0x3536, 0x3738, 0x3940, 0x82B8, 0x6E98, 0x4503⟩ = 0x2 ∧
    crc4 ⟨0, 0, 0, 0, 0, 0, 0, 0⟩ = 0x0 ∧
    crc4 ⟨0xFFFF, 0xFFFF, 0xFFFF, 0xFFFF, 0xFFFF, 0xFFFF, 0xFFFF, 0xFFFF⟩ = 0x0 ∧
    crc4 ⟨0x0000, 0x9CBF, 0x903C, 0x5B15, 0x5AF2, 0x82B8, 0x6E98, 0x0000⟩ = 0x0 ∧
    crc4 ⟨0x3132, 0x3334, 0x3536, 0x3738, 0x3940, 0x82B8, 0x6E98, 0⟩ = 0xA := by
  decide +kernel

/-- "Flips of two or more bits can cancel" (R107): those of the top and the bottom bit of
word 0 do. -/
theorem checksumOk_two_flips :
    checksumOk ⟨0, 0, 0, 0, 0, 0, 0, 0⟩ = true ∧
      checksumOk (flipBit (flipBit ⟨0, 0, 0, 0, 0, 0, 0, 0⟩ 0 15) 0 0) = true := by
  decide +kernel

/-- Settles O30: by linearity a flipped bit matters as it does in the all-zero set, where the 128 cases are finite. -/
theorem checksumDetectsSingleBitFlips : Obligations.ChecksumDetectsSingleBitFlips := by
  obtain ⟨h2, h3, hzero, hones, hpass, hA⟩ := crc4_values
  obtain ⟨hok, hflips⟩ := checksumOk_two_flips
  exact ⟨crc4_eq, crc4_exampleVector, h2, h3, hzero, hones, hpass, hA, checksumOk_iff,
    fun _ _ _ hc hw hb => checksumOk_flipBit hc hw hb,
    _, 0, 15, 0, 0, by decide, by decide, by decide, by decide, by decide, hok, hflips⟩

end Sys2Proof.Machine

/-! SUPPORT. What the sensor operations of 40_calibration_conversion.md do on the bus: a transaction with a sensor leaves
all but H and the oracle's place, so each operation's answers and its frame follow from its script (O27, O28, O29, O31,
O33, O35, O36), its end at the first failure (O25) and its independence of the lamp (O26). -/

namespace Sys2Proof.Machine

/-! ## Transactions with the sensors -/

/-- "The four device addresses are pairwise different" (00_scope.md R10): no sensor is the PWM controller. -/
theorem sensorAddr_ne_pwmAddr {p : Params} (hwf : p.wf = true) :
    p.ptAddr ≠ p.pwmAddr ∧ p.rhAddr ≠ p.pwmAddr ∧ p.slAddr ≠ p.pwmAddr := by
  obtain ⟨-, -, -, -, -, -, -, -, -, -, haddr, -⟩ := p.wf_iff.mp hwf
  have hnodup : ([p.ptAddr, p.rhAddr, p.slAddr].concat p.pwmAddr).Nodup := p.addressesDistinct_iff.mp haddr
  have hmem := ((List.nodup_concat _ _).mp hnodup).1
  simp only [List.mem_cons, List.not_mem_nil, or_false, not_or] at hmem
  obtain ⟨hpt, hrh, hsl⟩ := hmem
  exact ⟨Ne.symm hpt, Ne.symm hrh, Ne.symm hsl⟩

/-- `s` after the transactions `l` with sensors, `rest` being the oracle's script still to come. -/
def State.sensed (s : State) (l : List Transaction) (rest : List BusAnswer) : State :=
  { s with history := s.history ++ l, oracle := rest, draws := s.draws + l.length }

@[simp] theorem sensed_cfg (s : State) (l : List Transaction) (rest : List BusAnswer) :
    (s.sensed l rest).cfg = s.cfg := rfl

theorem sensed_sensed (s : State) (l l' : List Transaction) (rest rest' : List BusAnswer) :
    (s.sensed l rest).sensed l' rest' = s.sensed (l ++ l') rest' := by
  simp only [State.sensed, List.append_assoc, List.length_append, Nat.add_assoc]

/-- A run of transactions that leaves the PWM controller alone leaves all but H and the oracle's place. -/
theorem Issued.eq_sensed {s u : State} {l : List Transaction} (hi : Issued s l u)
    (ha : ∀ x ∈ l, x.addr ≠ s.cfg.pwmAddr) : u = s.sensed l u.oracle := by
  rw [Issued, deviceAfter_other _ ha] at hi
  exact hi

section
variable {s : State} {q : BusRequest} {next : List Byte → State → State} {bytes : List Byte} {rest : List BusAnswer}

theorem transact_sensed (hq : requestAddr q ≠ s.cfg.pwmAddr) :
    (transact q s).2 = s.sensed [historyEntry q (busAnswer q s)] s.oracle.tail :=
  (transact_issued q s).eq_sensed (List.forall_mem_singleton.mpr (by rwa [historyEntry_addr]))

/-- A scripted answer with the bytes asked for. -/
theorem onBus_sensed (ho : s.oracle = .ok bytes :: rest) (hn : bytes.length = bytesExpected q)
    (hq : requestAddr q ≠ s.cfg.pwmAddr) :
    onBus q s next = next bytes (s.sensed [historyEntry q (some bytes)] rest) := by
  rw [onBus_ok q next ho hn, transact_sensed hq, busAnswer_ok q ho hn, ho, List.tail_cons]

/-- A scripted success of a request that receives nothing. -/
theorem onBus_sensed_empty (ho : s.oracle = .ok bytes :: rest) (hn : bytesExpected q = 0)
    (hq : requestAddr q ≠ s.cfg.pwmAddr) :
    onBus q s next = next [] (s.sensed [historyEntry q (some [])] rest) := by
  rw [onBus_ok_empty q next ho hn, transact_sensed hq, busAnswer_ok_empty q ho hn, ho, List.tail_cons]

/-- A scripted failure. -/
theorem onBus_sensed_fail (ho : s.oracle = .fail :: rest) (hq : requestAddr q ≠ s.cfg.pwmAddr) :
    onBus q s next = respond .busError 0 (s.sensed [historyEntry q none] rest) := by
  rw [onBus_fail q next ho, transact_sensed hq, busAnswer_fail q ho, ho, List.tail_cons]

end

/-! ## PT.CALVFY (R108) -/

theorem execPtCalvfy_unloaded {s : State} (hcal : s.cal = none) :
    execPtCalvfy s = .next (respond .calibrationError 0 s) := by
  simp only [execPtCalvfy, hcal]

/-- With coefficients the two branches differ in the comparison's result alone. -/
theorem execPtCalvfy_loaded {s : State} {c : Coeffs} (hcal : s.cal = some c) :
    execPtCalvfy s = .next (respond .ok (if checksumOk c then 1 else 0) { s with calValid := checksumOk c }) := by
  cases hok : checksumOk c <;> simp [execPtCalvfy, hcal, hok]

/-- Settles O29, by whether coefficients are loaded. -/
theorem ptCalvfyComparesChecksum : Obligations.PtCalvfyComparesChecksum :=
  ⟨rfl, fun _ hcal => execPtCalvfy_unloaded hcal, fun _ _ hcal => execPtCalvfy_loaded hcal, by decide +kernel⟩

/-! ## The PROM read (R104, R110) -/

/-- Up to eight words fill the slots in order, the others being 0. -/
theorem words_ofWords {ws : List Half} (h : ws.length ≤ 8) :
    (Coeffs.ofWords ws).words = ws ++ List.replicate (8 - ws.length) 0 := by
  have hslots : (Coeffs.ofWords ws).words = (List.range 8).map fun i => ws.getD i 0 := rfl
  rw [hslots]
  apply List.ext_getElem
  · simp only [List.length_map, List.length_range, List.length_append, List.length_replicate]
    omega
  · intro i _ _
    by_cases hi : i < ws.length <;> simp [List.getElem_append, hi]

theorem promEntries_length (p : Params) (i : Nat) (ws : List Half) : (promEntries p i ws).length = 2 * ws.length := by
  induction ws generalizing i with
  | nil => rfl
  | cons w ws ih => simp only [promEntries, List.length_cons, ih]; omega

theorem promEntries_addr (p : Params) (i : Nat) (ws : List Half) : ∀ x ∈ promEntries p i ws, x.addr = p.ptAddr := by
  induction ws generalizing i with
  | nil => nofun
  | cons w ws ih => exact List.forall_mem_cons.mpr ⟨rfl, List.forall_mem_cons.mpr ⟨rfl, ih (i + 1)⟩⟩

section
variable {s : State} {rest : List BusAnswer}

/-- A scripted read of all words (R104). -/
theorem readCalibration_scripted {ws : List Half} (hwf : s.cfg.wf = true) (hlen : ws.length = s.cfg.promReadCount)
    (ho : s.oracle = promScript ws ++ rest) (next : Coeffs → State → State) :
    readCalibration s next = next (Coeffs.ofWords ws)
      { s.sensed (promEntries s.cfg 0 ws) rest with cal := some (Coeffs.ofWords ws), calValid := false } := by
  obtain ⟨hpt, -⟩ := sensorAddr_ne_pwmAddr hwf
  obtain ⟨u, hi, hu, he⟩ := promWords_scripted ws 0 s rest ho
  have hsensed := hi.eq_sensed fun x hx => by rwa [promEntries_addr s.cfg 0 ws x hx]
  rw [readCalibration, ← hlen, he, hsensed, hu]

/-- A scripted read with a failed transaction (R104). -/
theorem readCalibration_scripted_failure {answers : List BusAnswer} (hwf : s.cfg.wf = true)
    (ha : answers.all answerOk = true) (hlen : answers.length < 2 * s.cfg.promReadCount)
    (ho : s.oracle = answers ++ .fail :: rest) :
    ∃ l, l.length = answers.length + 1 ∧ (∀ x ∈ l, x.addr = s.cfg.ptAddr) ∧
      ∀ next, readCalibration s next = respond .busError 0 (s.sensed l rest) := by
  obtain ⟨hpt, -⟩ := sensorAddr_ne_pwmAddr hwf
  obtain ⟨l, u, hi, -, hl, haddr, hu, he⟩ := promWords_scripted_failure _ 0 s answers rest ha hlen ho
  have hsensed := hi.eq_sensed fun x hx => by rwa [haddr x hx]
  rw [hu] at hsensed
  exact ⟨l, hl, haddr, fun next => by rw [readCalibration, he, hsensed]⟩

/-- The slots after a complete read (R104): PROM_READ_COUNT is 7 or 8. -/
theorem words_of_complete_read {ws : List Half} (hwf : s.cfg.wf = true) (hlen : ws.length = s.cfg.promReadCount) :
    (Coeffs.ofWords ws).words = ws ++ List.replicate (8 - s.cfg.promReadCount) 0 := by
  obtain ⟨-, -, -, -, -, -, -, -, hcount, -⟩ := s.cfg.wf_iff.mp hwf
  have h78 := s.cfg.promCountOk_iff.mp hcount
  rw [← hlen]
  exact words_ofWords (by omega)

/-- Two draws for each word read (R103). -/
theorem draws_of_complete_read {ws : List Half} (hlen : ws.length = s.cfg.promReadCount) :
    (promEntries s.cfg 0 ws).length = 2 * s.cfg.promReadCount := by
  rw [promEntries_length, hlen]

end

/-- Settles O27: the read stops at a scripted failure, or all the words arrive. -/
theorem ptCalrdReadsAllOrNothing : Obligations.PtCalrdReadsAllOrNothing := by
  refine ⟨rfl, fun s ws rest hwf hlen ho => ?_, fun s answers rest hwf ha hlen ho => ?_⟩
  · refine ⟨Coeffs.ofWords ws, words_of_complete_read hwf hlen, ?_⟩
    rw [← draws_of_complete_read hlen]
    exact congrArg Host.Outcome.next (readCalibration_scripted hwf hlen ho _)
  · obtain ⟨l, hl, haddr, he⟩ := readCalibration_scripted_failure hwf ha hlen ho
    exact ⟨l, hl, haddr, congrArg Host.Outcome.next (he _)⟩

/-- Settles O28: as O27, and then by the two cases of the comparison. -/
theorem ptInitReadsAndVerifies : Obligations.PtInitReadsAndVerifies := by
  refine ⟨rfl, fun s ws rest hwf hlen ho => ?_, fun s answers rest hwf ha hlen ho => ?_⟩
  · refine ⟨Coeffs.ofWords ws, words_of_complete_read hwf hlen, ?_⟩
    rw [← draws_of_complete_read hlen]
    refine congrArg Host.Outcome.next ((readCalibration_scripted hwf hlen ho _).trans ?_)
    cases checksumOk (Coeffs.ofWords ws) <;> rfl
  · obtain ⟨l, hl, haddr, he⟩ := readCalibration_scripted_failure hwf ha hlen ho
    exact ⟨l, hl, haddr, congrArg Host.Outcome.next (he _)⟩

/-! ## PT.TEMP (R113) -/

/-- Without verified coefficients PT.TEMP is refused; R22 excludes CAL_VALID = 1 without coefficients (log 13). -/
theorem execPtTemp_unverified {s : State} (h : s.calValid = false ∨ s.cal = none) :
    execPtTemp s = .next (respond .calibrationError 0 s) := by
  rcases h with hv | hcal
  · simp only [execPtTemp, hv]
  · cases hv : s.calValid <;> simp only [execPtTemp, hcal, hv]

theorem execPtTemp_verified {s : State} {c : Coeffs} (hv : s.calValid = true) (hcal : s.cal = some c) :
    execPtTemp s = .next (onBus (.write s.cfg.ptAddr s.cfg.ptCmdConvD2 []) s fun _ s1 =>
      onBus (.writeRead s1.cfg.ptAddr s1.cfg.ptCmdAdcRead 3) s1 fun bytes s2 =>
        respond .ok (s32 (convTemp (beNat bytes) c.c5.toNat c.c6.toNat)) s2) := by
  simp only [execPtTemp, hv, hcal]

theorem unverified_or_verified (s : State) :
    (s.calValid = false ∨ s.cal = none) ∨ ∃ c, s.calValid = true ∧ s.cal = some c := by
  cases s.calValid <;> cases s.cal <;> simp

/-- Three bytes, most significant first (20_memory.md R60). -/
theorem beNat_three (b0 b1 b2 : Byte) : beNat [b0, b1, b2] = b0.toNat * 65536 + b1.toNat * 256 + b2.toNat := by
  simp only [beNat, List.foldl_cons, List.foldl_nil]
  omega

/-- Settles O31, by the script: the answers of the command write and of the result read. -/
theorem ptTempConvertsOrRefuses : Obligations.PtTempConvertsOrRefuses := by
  refine ⟨rfl, fun s hv => execPtTemp_unverified (.inl hv), fun s c bs b0 b1 b2 rest hwf hv hcal ho => ?_,
    fun s c rest hwf hv hcal ho => ?_, fun s c bs rest hwf hv hcal ho => ?_⟩ <;>
  obtain ⟨hpt, -⟩ := sensorAddr_ne_pwmAddr hwf <;>
  refine (execPtTemp_verified hv hcal).trans (congrArg Host.Outcome.next ?_)
  · refine Eq.trans (onBus_sensed_empty ho rfl hpt) (Eq.trans (onBus_sensed rfl rfl hpt) ?_)
    rw [sensed_sensed, convTemp_eq, beNat_three]
    rfl
  · exact onBus_sensed_fail ho hpt
  · refine Eq.trans (onBus_sensed_empty ho rfl hpt) (Eq.trans (onBus_sensed_fail rfl hpt) ?_)
    rw [sensed_sensed]
    rfl

/-! ## RH.READ (R120) -/

/-- Settles O33, by the script: the answers of the command write and of the receive. -/
theorem rhReadConverts : Obligations.RhReadConverts := by
  refine ⟨rfl, fun s bs b0 b1 b2 rest hwf ho => congrArg Host.Outcome.next ?_,
    fun s rest hwf ho => congrArg Host.Outcome.next ?_, fun s bs rest hwf ho => congrArg Host.Outcome.next ?_⟩ <;>
  obtain ⟨-, hrh, -⟩ := sensorAddr_ne_pwmAddr hwf
  · refine Eq.trans (onBus_sensed_empty ho rfl hrh) (Eq.trans (onBus_sensed rfl rfl hrh) ?_)
    rw [sensed_sensed]
    rfl
  · exact onBus_sensed_fail ho hrh
  · refine Eq.trans (onBus_sensed_empty ho rfl hrh) (Eq.trans (onBus_sensed_fail rfl hrh) ?_)
    rw [sensed_sensed]
    rfl

/-! ## SL.INIT and SL.TEMP (R124, R126) -/

/-- Settles O35: the standby bits of the byte read decide whether there is a second transaction. -/
theorem slInitWakesSensor : Obligations.SlInitWakesSensor := by
  refine ⟨rfl, fun s b bs rest hwf hb ho => congrArg Host.Outcome.next ?_,
    fun s b rest hwf hb ho => congrArg Host.Outcome.next ?_, fun s rest hwf ho => congrArg Host.Outcome.next ?_,
    fun s b rest hwf hb ho => congrArg Host.Outcome.next ?_⟩ <;>
  obtain ⟨-, -, hsl⟩ := sensorAddr_ne_pwmAddr hwf
  · refine Eq.trans (onBus_sensed ho rfl hsl) (Eq.trans (if_pos hb) (Eq.trans (onBus_sensed_empty rfl rfl hsl) ?_))
    rw [sensed_sensed]
    rfl
  · exact Eq.trans (onBus_sensed ho rfl hsl) (if_neg (not_not_intro hb))
  · exact onBus_sensed_fail ho hsl
  · refine Eq.trans (onBus_sensed ho rfl hsl) (Eq.trans (if_pos hb) (Eq.trans (onBus_sensed_fail rfl hsl) ?_))
    rw [sensed_sensed]
    rfl

/-- Settles O36: the s32 image of the byte as a signed number is its sign extension. -/
theorem slTempSignExtends : Obligations.SlTempSignExtends := by
  refine ⟨rfl, fun s b rest hwf ho => congrArg Host.Outcome.next ?_,
    fun s rest hwf ho => congrArg Host.Outcome.next ?_⟩ <;>
  obtain ⟨-, -, hsl⟩ := sensorAddr_ne_pwmAddr hwf
  · exact onBus_sensed ho rfl hsl
  · exact onBus_sensed_fail ho hsl

/-! ## The end at the first failure (R100) -/

/-- The two ways a sensor operation can end. Either all its transactions succeeded, and its answer is its own; the
calibration is then all it may have written. Or the last transaction failed, and nothing was written. -/
inductive SensorRun (s : State) : State → Prop where
  | completed {l : List Transaction} {rest : List BusAnswer} {c : Option Coeffs} {valid : Bool} {st : Status} {v : Word}
      (ha : ∀ x ∈ l, x.addr ≠ s.cfg.pwmAddr) (hok : AllOk l) (hst : st ≠ .busError) :
      SensorRun s (respond st v { s.sensed l rest with cal := c, calValid := valid })
  | failed {l : List Transaction} {rest : List BusAnswer} (ha : ∀ x ∈ l, x.addr ≠ s.cfg.pwmAddr)
      (hstop : StoppedAtFailure l) : SensorRun s (respond .busError 0 (s.sensed l rest))

/-- Without a transaction. -/
theorem sensorRun_respond_calValid {s : State} {st : Status} {valid : Bool} (v : Word) (hst : st ≠ .busError) :
    SensorRun s (respond st v { s with calValid := valid }) := by
  have hrun : SensorRun s (respond st v { s.sensed [] s.oracle with cal := s.cal, calValid := valid }) :=
    .completed nofun AllOk.nil hst
  simpa only [State.sensed, List.append_nil, List.length_nil, Nat.add_zero] using hrun

theorem sensorRun_respond {s : State} {st : Status} (v : Word) (hst : st ≠ .busError) :
    SensorRun s (respond st v s) := sensorRun_respond_calValid (valid := s.calValid) v hst

/-- Successful transactions, then the rest of the operation. -/
theorem SensorRun.after {s t : State} {l : List Transaction} {rest : List BusAnswer}
    (ht : SensorRun (s.sensed l rest) t) (ha : ∀ x ∈ l, x.addr ≠ s.cfg.pwmAddr) (hok : AllOk l) : SensorRun s t := by
  cases ht with
  | completed ha' hok' hst =>
    simp only [sensed_sensed]
    exact .completed (List.forall_mem_append.mpr ⟨ha, ha'⟩) (hok.append hok') hst
  | failed ha' hstop =>
    rw [sensed_sensed]
    exact .failed (List.forall_mem_append.mpr ⟨ha, ha'⟩) (hok.then_stopped hstop)

theorem onBus_sensorRun {s : State} {q : BusRequest} {next : List Byte → State → State}
    (hq : requestAddr q ≠ s.cfg.pwmAddr) (hnext : ∀ bytes u, u.cfg = s.cfg → SensorRun u (next bytes u)) :
    SensorRun s (onBus q s next) := by
  have haddr : ∀ a, ∀ x ∈ [historyEntry q a], x.addr ≠ s.cfg.pwmAddr := fun a =>
    List.forall_mem_singleton.mpr (by rwa [historyEntry_addr])
  rcases onBus_cases q s next with ⟨-, hi, he⟩ | ⟨bytes, -, hi, he⟩
  · rw [he, hi.eq_sensed (haddr _)]
    exact .failed (haddr _) (StoppedAtFailure.single (historyEntry_ok q none))
  · rw [he, hi.eq_sensed (haddr _)]
    exact (hnext bytes _ (sensed_cfg s _ _)).after (haddr _) (AllOk.single (historyEntry_ok q (some bytes)))

/-- The PROM read, then an answer that writes CAL_VALID at most. -/
theorem readCalibration_sensorRun {s : State} {next : Coeffs → State → State} (hpt : s.cfg.ptAddr ≠ s.cfg.pwmAddr)
    (hnext : ∀ c u, ∃ valid st v, st ≠ .busError ∧ next c u = respond st v { u with calValid := valid }) :
    SensorRun s (readCalibration s next) := by
  unfold readCalibration
  rcases promWords_cases s.cfg.promReadCount 0 s with
    ⟨l, u, hi, hstop, -, haddr, he⟩ | ⟨l, u, ws, hi, hok, -, haddr, -, he⟩
  all_goals
    have ha : ∀ x ∈ l, x.addr ≠ s.cfg.pwmAddr := fun x hx => by rwa [haddr x hx]
    rw [he, hi.eq_sensed ha]
  · exact .failed ha hstop
  · obtain ⟨valid, st, v, hst, hv⟩ := hnext (Coeffs.ofWords ws)
      { s.sensed l u.oracle with cal := some (Coeffs.ofWords ws), calValid := false }
    rw [hv]
    exact .completed ha hok hst

/-- Every sensor operation ends in one of the two ways. -/
theorem exec_sensorRun {i : Instr} {s : State} (hi : SensorOp i) (hwf : s.cfg.wf = true) :
    ∃ t, exec i s = .next t ∧ SensorRun s t := by
  obtain ⟨hpt, hrh, hsl⟩ := sensorAddr_ne_pwmAddr hwf
  cases hi with
  | ptCalrd =>
    exact ⟨_, rfl, readCalibration_sensorRun hpt fun c u => ⟨u.calValid, .ok, 0, nofun, rfl⟩⟩
  | ptCalvfy =>
    cases hcal : s.cal with
    | none => exact ⟨_, execPtCalvfy_unloaded hcal, sensorRun_respond 0 nofun⟩
    | some c => exact ⟨_, execPtCalvfy_loaded hcal, sensorRun_respond_calValid _ nofun⟩
  | ptInit =>
    refine ⟨_, rfl, readCalibration_sensorRun hpt fun c u => ?_⟩
    cases checksumOk c with
    | true => exact ⟨true, .ok, 1, nofun, rfl⟩
    | false => exact ⟨u.calValid, .calibrationError, 0, nofun, rfl⟩
  | ptTemp =>
    rcases unverified_or_verified s with h | ⟨c, hv, hcal⟩
    · exact ⟨_, execPtTemp_unverified h, sensorRun_respond 0 nofun⟩
    · exact ⟨_, execPtTemp_verified hv hcal, onBus_sensorRun hpt fun _ u hu =>
        onBus_sensorRun (hu ▸ hpt) fun _ _ _ => sensorRun_respond _ nofun⟩
  | rhRead =>
    exact ⟨_, rfl, onBus_sensorRun hrh fun _ u hu =>
      onBus_sensorRun (hu ▸ hrh) fun _ _ _ => sensorRun_respond _ nofun⟩
  | slInit =>
    refine ⟨_, rfl, onBus_sensorRun hsl fun bytes u hu => ?_⟩
    split
    · exact onBus_sensorRun (hu ▸ hsl) fun _ _ _ => sensorRun_respond 1 nofun
    · exact sensorRun_respond 0 nofun
  | slTemp => exact ⟨_, rfl, onBus_sensorRun hsl fun _ _ _ => sensorRun_respond _ nofun⟩

/-- What a sensor operation leaves of `s`, whenever it answers. -/
theorem sensorRun_of_exec {i : Instr} {s t : State} (hi : SensorOp i) (hwf : s.cfg.wf = true) (h : exec i s = .next t) :
    SensorRun s t := by
  obtain ⟨t', ht', hrun⟩ := exec_sensorRun hi hwf
  cases ht'.symm.trans h
  exact hrun

/-- Settles O25, by the two ways a sensor operation can end. -/
theorem sensorOpStopsAtFirstFailure : Obligations.SensorOpStopsAtFirstFailure := by
  intro i s t hi hwf h
  cases sensorRun_of_exec hi hwf h with
  | @completed l rest c valid st v _ hok hst =>
    refine ⟨l, rfl, .inl ⟨hok, fun v' hv => hst ?_⟩⟩
    have hlast : [(⟨s.requester, ⟨st, v⟩⟩ : Delivery)] = [⟨s.requester, ⟨.busError, v'⟩⟩] :=
      List.append_cancel_left hv
    cases hlast
    rfl
  | @failed l rest _ hstop =>
    obtain ⟨before, last, hl, hok, hlast⟩ := hstop
    exact ⟨l, rfl, .inr ⟨before, last, hl, hok, hlast, rfl⟩⟩

/-! ## Independence of the lamp (R101) -/

/-- `s` with the eight elements of R101 as in `o`. -/
def State.withLampOf (s o : State) : State :=
  { s with
    animState := o.animState
    phase := o.phase
    freq := o.freq
    seqIdx := o.seqIdx
    lampBrightness := o.lampBrightness
    lampMireds := o.lampMireds
    pwmEn := o.pwmEn
    pwmdev := o.pwmdev }

section
variable {s o : State}

theorem withLampOf_cfg : (s.withLampOf o).cfg = s.cfg := rfl

/-- The oracle looks at its own place alone. -/
theorem busAnswer_withLampOf (q : BusRequest) : busAnswer q (s.withLampOf o) = busAnswer q s := rfl

theorem transact_withLampOf {q : BusRequest} (hq : requestAddr q ≠ s.cfg.pwmAddr) :
    (transact q (s.withLampOf o)).2 = (transact q s).2.withLampOf o := by
  rw [transact_sensed hq, transact_sensed (s := s.withLampOf o) hq]
  rfl

theorem onBus_withLampOf {q : BusRequest} {next : List Byte → State → State} (hq : requestAddr q ≠ s.cfg.pwmAddr)
    (hnext : ∀ bytes u, u.cfg = s.cfg → next bytes (u.withLampOf o) = (next bytes u).withLampOf o) :
    onBus q (s.withLampOf o) next = (onBus q s next).withLampOf o := by
  rw [onBus, busAnswer_withLampOf, transact_withLampOf hq, onBus]
  split
  · rfl
  · exact hnext _ _ (transact_cfg q s)

theorem promWord_withLampOf {i : Nat} {next : Half → State → State} (hpt : s.cfg.ptAddr ≠ s.cfg.pwmAddr)
    (hnext : ∀ w u, u.cfg = s.cfg → next w (u.withLampOf o) = (next w u).withLampOf o) :
    promWord i (s.withLampOf o) next = (promWord i s next).withLampOf o :=
  onBus_withLampOf hpt fun _ _ hu => onBus_withLampOf (hu ▸ hpt) fun _ u' hu' => hnext _ u' (hu'.trans hu)

theorem promWords_withLampOf {n i : Nat} {next : List Half → State → State} (hpt : s.cfg.ptAddr ≠ s.cfg.pwmAddr)
    (hnext : ∀ ws u, next ws (u.withLampOf o) = (next ws u).withLampOf o) :
    promWords n i (s.withLampOf o) next = (promWords n i s next).withLampOf o := by
  induction n generalizing i s next with
  | zero => exact hnext [] s
  | succ n ih =>
    exact promWord_withLampOf hpt fun w u hu => ih (hu ▸ hpt) fun ws u' => hnext (w :: ws) u'

theorem readCalibration_withLampOf {next : Coeffs → State → State} (hpt : s.cfg.ptAddr ≠ s.cfg.pwmAddr)
    (hnext : ∀ c u, next c (u.withLampOf o) = (next c u).withLampOf o) :
    readCalibration (s.withLampOf o) next = (readCalibration s next).withLampOf o :=
  promWords_withLampOf hpt fun ws u =>
    hnext (Coeffs.ofWords ws) { u with cal := some (Coeffs.ofWords ws), calValid := false }

end

/-- A sensor operation does the same under another lamp state, which it keeps. -/
theorem exec_withLampOf {i : Instr} {s : State} (hi : SensorOp i) (hwf : s.cfg.wf = true) (o : State) :
    ∃ t, exec i s = .next t ∧ exec i (s.withLampOf o) = .next (t.withLampOf o) := by
  obtain ⟨hpt, hrh, hsl⟩ := sensorAddr_ne_pwmAddr hwf
  cases hi with
  | ptCalrd => exact ⟨_, rfl, congrArg Host.Outcome.next (readCalibration_withLampOf hpt fun _ _ => rfl)⟩
  | ptCalvfy =>
    cases hcal : s.cal with
    | none => exact ⟨_, execPtCalvfy_unloaded hcal, execPtCalvfy_unloaded (s := s.withLampOf o) hcal⟩
    | some c => exact ⟨_, execPtCalvfy_loaded hcal, execPtCalvfy_loaded (s := s.withLampOf o) hcal⟩
  | ptInit =>
    refine ⟨_, rfl, congrArg Host.Outcome.next (readCalibration_withLampOf hpt fun c u => ?_)⟩
    cases checksumOk c <;> rfl
  | ptTemp =>
    rcases unverified_or_verified s with h | ⟨c, hv, hcal⟩
    · exact ⟨_, execPtTemp_unverified h, execPtTemp_unverified (s := s.withLampOf o) h⟩
    · refine ⟨_, execPtTemp_verified hv hcal, (execPtTemp_verified (s := s.withLampOf o) hv hcal).trans ?_⟩
      exact congrArg Host.Outcome.next <| onBus_withLampOf hpt fun _ u hu =>
        onBus_withLampOf (hu ▸ hpt) fun _ _ _ => rfl
  | rhRead =>
    exact ⟨_, rfl, congrArg Host.Outcome.next <| onBus_withLampOf hrh fun _ u hu =>
      onBus_withLampOf (hu ▸ hrh) fun _ _ _ => rfl⟩
  | slInit =>
    refine ⟨_, rfl, congrArg Host.Outcome.next <| onBus_withLampOf hsl fun bytes u hu => ?_⟩
    rw [withLampOf_cfg]
    split
    · exact onBus_withLampOf (hu ▸ hsl) fun _ _ _ => rfl
    · rfl
  | slTemp => exact ⟨_, rfl, congrArg Host.Outcome.next (onBus_withLampOf hsl fun _ _ _ => rfl)⟩

/-- Settles O26: the frame is read off the two ways to end, and the other lamp state is one of `withLampOf`. -/
theorem sensorOpsIgnoreLampState : Obligations.SensorOpsIgnoreLampState := by
  intro i s t hi hwf h
  refine ⟨?_, ?_, fun a ph fr ix m b en dev => ?_⟩
  · cases sensorRun_of_exec hi hwf h <;> exact ⟨rfl, rfl, rfl, rfl, rfl, rfl, rfl, rfl⟩
  · cases sensorRun_of_exec hi hwf h with
    | completed ha => exact ⟨_, rfl, ha⟩
    | failed ha => exact ⟨_, rfl, ha⟩
  · obtain ⟨t', ht', ho⟩ := exec_withLampOf hi hwf { s with
      animState := a, phase := ph, freq := fr, seqIdx := ix, lampBrightness := b, lampMireds := m, pwmEn := en,
      pwmdev := dev }
    cases ht'.symm.trans h
    exact ho

end Sys2Proof.Machine

/-! SUPPORT. The system operations and the PWM driver of 41_pwm_driver.md: what NOP and RDREG answer (O23, O24), which
registers a run of one-byte writes leaves changed, and from that the bring-up (O37) and the channel writes (O38, O39),
and the percent conversion (O40, O41). -/

namespace Sys2Proof.Machine

open Laws

/-! ## Words as numbers -/

theorem eq_ofNat_of_toNat_eq {w : Word} {n : Nat} (h : w.toNat = n) : w = BitVec.ofNat 32 n := by
  rw [← h, BitVec.ofNat_toNat, BitVec.setWidth_eq]

theorem wordB_eq_ofNat (op x : Byte) : wordB op x = BitVec.ofNat 32 (op.toNat * 2 ^ 24 + x.toNat) :=
  eq_ofNat_of_toNat_eq (wordB_toNat op x)

theorem wordP_eq_ofNat (op a d : Byte) :
    wordP op a d = BitVec.ofNat 32 (op.toNat * 2 ^ 24 + a.toNat * 256 + d.toNat) := by
  rw [Nat.add_assoc]
  exact eq_ofNat_of_toNat_eq (wordP_toNat op a d)

/-! ## NOP and RDREG (R156, R157) -/

/-- Settles O23. -/
theorem nopOnlyAnswers : Obligations.NopOnlyAnswers := ⟨rfl, fun _ => rfl⟩

/-- Register STATUS as the sum of its fields (10_state.md R31). -/
theorem statusWord_eq_ofNat (s : State) : statusWord s = BitVec.ofNat 32
    (s.calLoaded.toNat + 2 * s.calValid.toNat + 4 * s.animState.code.toNat + 16 * s.pwmEn.toNat) := by
  apply eq_ofNat_of_toNat_eq
  simp only [statusWord, append_toNat, BitVec.toNat_ofBool, BitVec.toNat_ofNat]
  omega

/-- Register LAMP as the sum of its fields (10_state.md R31). -/
theorem lampWord_eq_ofNat (s : State) :
    lampWord s = BitVec.ofNat 32 (65536 * s.lampBrightness.toNat + s.lampMireds.toNat) := by
  apply eq_ofNat_of_toNat_eq
  simp only [lampWord, append_toNat, BitVec.toNat_ofNat]
  omega

/-- The slots in order are the list of all eight. -/
theorem Coeffs.words_getElem? (c : Coeffs) {i : Nat} (hi : i < 8) : c.words[i]? = some (c.get i) := by
  interval_cases i <;> rfl

/-- Above the five state registers there are the coefficient slots and nothing else (10_state.md R31). -/
theorem readRegister_of_five_le {r : Byte} (s : State) (h : 5 ≤ r.toNat) : readRegister r s =
    if 8 ≤ r.toNat ∧ r.toNat ≤ 15 then
      s.cal.elim (.calibrationError, 0) fun c => (.ok, (c.get (r.toNat - 8)).setWidth 32)
    else (.invalidArgument, 0) := by
  unfold readRegister
  split
  case h_6 => cases s.cal <;> rfl
  all_goals omega

theorem exec_rdreg {r : Byte} {s : State} {st : Status} {v : Word} (h : readRegister r s = (st, v)) :
    exec (.rdreg r) s = .next (respond st v s) := by
  rw [show exec (.rdreg r) s = .next (respond (readRegister r s).1 (readRegister r s).2 s) from rfl, h]

/-- Settles O24: the five state registers one by one, then the numbers from 5 on by `readRegister_of_five_le`. A field
answered alone is its zero extension (`BitVec.ofNat_toNat`). -/
theorem rdregReadsTheMap : Obligations.RdregReadsTheMap := by
  unfold Obligations.RdregReadsTheMap
  simp only [BitVec.ofNat_toNat]
  refine ⟨fun r => wordB_eq_ofNat 0x01 r, fun s => ?_, fun s => ?_, fun s => exec_rdreg rfl, fun s => exec_rdreg rfl,
    fun s => exec_rdreg rfl, fun s r hlo hhi hcal => exec_rdreg ?_, fun s r c hlo hhi hcal => ?_,
    fun s r hr => exec_rdreg ?_⟩
  · refine exec_rdreg ((congrArg (Prod.mk Status.ok) (statusWord_eq_ofNat s)).trans ?_)
    cases s.animState <;> rfl
  · exact exec_rdreg (congrArg (Prod.mk Status.ok) (lampWord_eq_ofNat s))
  · rw [readRegister_of_five_le s (by omega), if_pos ⟨hlo, hhi⟩, hcal]
    rfl
  · refine ⟨c.get (r.toNat - 8), c.words_getElem? (by omega), exec_rdreg ?_⟩
    rw [readRegister_of_five_le s (by omega), if_pos ⟨hlo, hhi⟩, hcal]
    rfl
  · rw [readRegister_of_five_le s (by omega), if_neg (by omega)]

/-! ## The registers after a run of one-byte writes (20_memory.md R58) -/

section
variable {p : Params} {ws : List (Byte × Byte)} {oks : List Bool} {s u : State}

theorem storedByte_pwmWrite (p : Params) (r : Nat) (reg v : Byte) (ok : Bool) :
    storedByte p r ⟨.W, p.pwmAddr, some reg, [v], ok⟩ = if reg.toNat = r ∧ ok = true then some v else none := by
  simp only [storedByte, true_and, Option.map_some, Option.some.injEq]

/-- A register that no successful write of the run names is not stored to. -/
theorem lastStored_pwmEntries_none {r : Nat}
    (h : ∀ (k : Nat) (w : Byte × Byte), ws[k]? = some w → oks[k]? = some true → r ≠ w.1.toNat) :
    lastStored p r (pwmEntries p ws oks) = none := by
  induction ws generalizing oks with
  | nil => rfl
  | cons w ws ih =>
    cases oks with
    | nil => rfl
    | cons ok oks =>
      have hhead : ¬(w.1.toNat = r ∧ ok = true) := fun ⟨hr, hok⟩ => h 0 w rfl (congrArg some hok) hr.symm
      rw [pwmEntries_cons, lastStored_cons, ih fun k => h (k + 1), storedByte_pwmWrite, if_neg hhead]
      rfl

/-- When the registers of a run are pairwise different, each gets the byte of its own write, if that succeeded. -/
theorem lastStored_pwmEntries {k : Nat} {w : Byte × Byte} (hnd : (ws.map Prod.fst).Nodup) (hk : ws[k]? = some w) :
    lastStored p w.1.toNat (pwmEntries p ws oks) = if oks[k]? = some true then some w.2 else none := by
  induction ws generalizing oks k with
  | nil => cases hk
  | cons x ws ih =>
    cases oks with
    | nil => rfl
    | cons ok oks =>
      obtain ⟨hx, hnd⟩ := List.nodup_cons.mp hnd
      rw [pwmEntries_cons, lastStored_cons, storedByte_pwmWrite]
      cases k with
      | zero =>
        cases hk
        have hrest : lastStored p w.1.toNat (pwmEntries p ws oks) = none :=
          lastStored_pwmEntries_none fun j y hj _ heq =>
            hx (BitVec.eq_of_toNat_eq heq ▸ List.mem_map_of_mem (List.mem_of_getElem? hj))
        rw [hrest]
        simp
      | succ k =>
        have hskip : ¬(x.1.toNat = w.1.toNat ∧ ok = true) := fun ⟨heq, _⟩ =>
          hx (BitVec.eq_of_toNat_eq heq ▸ List.mem_map_of_mem (List.mem_of_getElem? (i := k) hk))
        rw [ih hnd hk, if_neg hskip, Option.or_none, List.getElem?_cons_succ]

theorem Issued.read_unwritten (hi : Issued s (pwmEntries s.cfg ws oks) u) {r : Nat}
    (h : ∀ (k : Nat) (w : Byte × Byte), ws[k]? = some w → oks[k]? = some true → r ≠ w.1.toNat) :
    Memory.read u.pwmdev r = Memory.read s.pwmdev r := by
  rw [hi.read, lastStored_pwmEntries_none h, Option.none_or]

theorem Issued.read_written (hi : Issued s (pwmEntries s.cfg ws oks) u) (hnd : (ws.map Prod.fst).Nodup) {k : Nat}
    {w : Byte × Byte} (hk : ws[k]? = some w) :
    Memory.read u.pwmdev w.1.toNat = if oks[k]? = some true then some w.2 else Memory.read s.pwmdev w.1.toNat := by
  rw [hi.read, lastStored_pwmEntries hnd hk]
  split <;> rfl

/-- A run whose first `k` writes alone succeeded changes their registers alone. -/
theorem Issued.read_take (hi : Issued s (pwmEntries s.cfg ws oks) u) (hnd : (ws.map Prod.fst).Nodup) {k : Nat}
    (hoks : ∀ i, oks[i]? = some true ↔ i < k) :
    (∀ x ∈ ws.take k, Memory.read u.pwmdev x.1.toNat = some x.2) ∧
    ∀ r, (∀ x ∈ ws.take k, r ≠ x.1.toNat) → Memory.read u.pwmdev r = Memory.read s.pwmdev r := by
  refine ⟨fun x hx => ?_, fun r hr => hi.read_unwritten fun i w hw hok => hr w ?_⟩
  · obtain ⟨i, hix⟩ := List.mem_iff_getElem?.mp hx
    rw [List.getElem?_take, Option.ite_none_right_eq_some] at hix
    obtain ⟨hik, hix⟩ := hix
    rw [hi.read_written hnd hix, if_pos ((hoks i).mpr hik)]
  · exact List.mem_iff_getElem?.mpr ⟨i, (List.getElem?_take_of_lt ((hoks i).mp hok)).trans hw⟩

/-- The state after some transactions and a response, field by field. -/
theorem Issued.respond_eq {l : List Transaction} {rest : List BusAnswer} (hi : Issued s l u) (ho : u.oracle = rest)
    (st : Status) (v : Word) : respond st v u = { s with
      pwmdev := u.pwmdev
      history := s.history ++ l
      oracle := rest
      draws := s.draws + l.length
      responses := answeredWith s st v } := by
  rw [Issued, ho] at hi
  subst hi
  rfl

end

/-! ## The registers of the driver (00_scope.md R10) -/

section
variable {p : Params}

theorem allCh_lt {ch : Nat} (h : ch ∈ Config.allCh) : ch < 8 :=
  (by decide : ∀ c ∈ Config.allCh, c < 8) ch h

/-- The duty registers do not wrap. -/
theorem dutyReg_toNat (hwf : p.wf = true) {ch : Nat} (hch : ch < 8) :
    (dutyReg p ch).toNat = p.regPwmBase.toNat + ch := by
  obtain ⟨-, -, -, -, -, -, -, -, -, -, -, hrange, -⟩ := p.wf_iff.mp hwf
  have hbase := p.dutyRangeOk_iff.mp hrange
  rw [dutyReg, BitVec.toNat_add, BitVec.toNat_ofNat]
  omega

/-- Writes to different channels are to different registers. -/
theorem dutyWrites_nodup (hwf : p.wf = true) {ds : List (Nat × Byte)} (hch : ∀ x ∈ ds, x.1 < 8)
    (hnd : (ds.map Prod.fst).Nodup) : ((dutyWrites p ds).map Prod.fst).Nodup := by
  have hmap : (dutyWrites p ds).map Prod.fst = (ds.map Prod.fst).map (dutyReg p) := by
    rw [dutyWrites, List.map_map, List.map_map]
    rfl
  have hlt : ∀ c ∈ ds.map Prod.fst, c < 8 := List.forall_mem_map.mpr hch
  rw [hmap]
  refine hnd.map_on fun a ha b hb hab => ?_
  have htoNat := congrArg BitVec.toNat hab
  rw [dutyReg_toNat hwf (hlt a ha), dutyReg_toNat hwf (hlt b hb)] at htoNat
  exact Nat.add_left_cancel htoNat

/-- The twelve registers of the bring-up are pairwise different. -/
theorem bringUp_nodup (hwf : p.wf = true) : ((bringUp p).map Prod.fst).Nodup := by
  obtain ⟨-, -, -, -, -, -, -, -, -, -, -, -, hregs⟩ := p.wf_iff.mp hwf
  have hduty : Config.allCh.map (fun ch => (dutyReg p ch).toNat) = Config.allCh.map (p.regPwmBase.toNat + ·) :=
    List.map_congr_left fun ch hch => dutyReg_toNat hwf (allCh_lt hch)
  apply List.Nodup.of_map BitVec.toNat
  rw [← initSteps_eq]
  show ([p.regMode1.toNat, p.regMode2.toNat, p.regLedout0.toNat, p.regLedout1.toNat] ++
    Config.allCh.map fun ch => (dutyReg p ch).toNat).Nodup
  rw [hduty]
  exact of_decide_eq_true hregs

end

/-! ## PWM.INIT (R142) -/

theorem getElem?_replicate_true {n i : Nat} : (List.replicate n true)[i]? = some true ↔ i < n := by
  simp [List.getElem?_replicate]

theorem getElem?_replicate_true_append_false {n i : Nat} :
    (List.replicate n true ++ [false])[i]? = some true ↔ i < n := by
  rw [List.getElem?_append, List.length_replicate]
  split
  · simp_all
  · cases i - n <;> simp_all

theorem exec_pwmInit (s : State) : exec .pwmInit s =
    .next (writeSteps (bringUp s.cfg) { s with pwmEn := true } fun u => respond .ok 0 u) := by
  rw [← initSteps_eq]
  rfl

/-- Settles O37: the script carries the writes through or stops them, and the registers are those of the successes. -/
theorem pwmInitBringsUp : Obligations.PwmInitBringsUp := by
  refine ⟨rfl, fun s answers rest hwf ha hlen ho => ?_, fun s answers rest hwf ha hlen ho => ?_⟩
  · obtain ⟨u, hi, hu, he⟩ := writeSteps_scripted (bringUp s.cfg) { s with pwmEn := true } answers rest ha hlen ho
    refine ⟨respond .ok 0 u, ?_, hi.respond_eq hu .ok 0, ?_⟩
    · rw [exec_pwmInit, he]
    · exact hi.read_take (k := 12) (bringUp_nodup hwf) fun _ => getElem?_replicate_true
  · obtain ⟨u, hi, hu, he⟩ :=
      writeSteps_scripted_failure (bringUp s.cfg) { s with pwmEn := true } answers rest ha hlen ho
    have hdraws : (pwmEntries s.cfg (bringUp s.cfg) (List.replicate answers.length true ++ [false])).length =
        answers.length + 1 := by
      rw [pwmEntries_length, List.length_append, List.length_replicate]
      exact Nat.min_eq_right hlen
    refine ⟨respond .busError 0 u, ?_, ?_, ?_⟩
    · rw [exec_pwmInit, he]
    · have heq := hi.respond_eq hu .busError 0
      rwa [hdraws] at heq
    · exact hi.read_take (bringUp_nodup hwf) fun _ => getElem?_replicate_true_append_false

/-! ## Best-effort channel writes (R140, R141) -/

/-- A scripted best-effort run over pairwise different channels, and the response after it. -/
theorem writeChannels_scripted {s : State} {ds : List (Nat × Byte)} {answers rest : List BusAnswer}
    (hwf : s.cfg.wf = true) (hch : ∀ x ∈ ds, x.1 < 8) (hnd : (ds.map Prod.fst).Nodup)
    (hlen : answers.length = ds.length) (ho : s.oracle = answers ++ rest) :
    (writeChannels ds s).status = bestEffortStatus (answers.map answerOk) ∧
    (writeChannels ds s).count = (answers.map answerOk).count true ∧
    ∀ st v, WroteChannels s ds (answers.map answerOk) rest st v (respond st v (writeChannels ds s).state) := by
  obtain ⟨oks, hoks, hi, hst, hcount, hscript⟩ := writeChannels_spec ds s hch
  obtain ⟨rfl, hrest⟩ := hscript answers rest ho hlen
  have hregs := dutyWrites_nodup hwf hch hnd
  refine ⟨hst, hcount, fun st v => ⟨?_, fun k ch d hk => ?_, fun r hr => ?_⟩⟩
  · have heq := hi.respond_eq hrest st v
    rwa [pwmEntries_length, dutyWrites_length, hoks, Nat.min_self] at heq
  · have hw : (dutyWrites s.cfg ds)[k]? = some (dutyReg s.cfg ch, d) := by
      rw [dutyWrites, List.getElem?_map, hk]
      rfl
    rw [State.duty, respond_cfg, hi.cfg, respond_pwmdev]
    exact hi.read_written hregs hw
  · refine hi.read_unwritten fun k w hw _ => ?_
    obtain ⟨x, hx, rfl⟩ := List.mem_map.mp (List.mem_of_getElem? hw)
    exact hr x hx

/-! ## PWM.SETCH (R145) -/

/-- One channel is a best-effort run of length one. -/
theorem exec_pwmSetch (s : State) (a d : Byte) : exec (.pwmSetch a d) s =
    .next (respond (writeChannels [(a.toNat, d)] s).status 0 (writeChannels [(a.toNat, d)] s).state) := by
  have hstatus : (writeChannels [(a.toNat, d)] s).status = (setChannel a.toNat d s).1 := by
    simp only [writeChannels]
    split
    · next hok => exact hok.symm
    · rfl
  rw [hstatus]
  rfl

/-- Settles O38, by the range of the channel. -/
theorem pwmSetchWritesOneChannel : Obligations.PwmSetchWritesOneChannel := by
  refine ⟨fun a d => wordP_eq_ofNat 0x21 a d, fun s a d x rest hwf ha ho => ?_, fun s a d ha => ?_⟩
  · obtain ⟨hst, -, hwrote⟩ := writeChannels_scripted (ds := [(a.toNat, d)]) (answers := [x]) hwf
      (List.forall_mem_singleton.mpr (Nat.lt_succ_of_le ha)) (List.nodup_singleton _) rfl ho
    have hst' : bestEffortStatus [answerOk x] = if answerOk x then .ok else .busError := by
      simp [bestEffortStatus]
    exact ⟨_, exec_pwmSetch s a d, hst.trans hst' ▸ hwrote _ 0⟩
  · rw [exec, execPwmSetch, setChannel_out _ d s ha]
    rfl

/-! ## PWM.SETGRP (R148) -/

theorem groupOf_eq_none {p : Params} {a : Byte} (ha : 2 < a.toNat) : groupOf p a = none := by
  unfold groupOf
  split
  case h_4 => rfl
  all_goals omega

/-- The members of a group are different channels of the ring (00_scope.md R10). -/
theorem group_channels {p : Params} {a : Byte} {chs : List Nat} (hwf : p.wf = true) (h : groupOf p a = some chs) :
    chs.Nodup ∧ ∀ ch ∈ chs, ch < 8 := by
  obtain ⟨-, hrange, hdistinct, -⟩ := p.wf_iff.mp hwf
  have hle := p.channelsInRange_iff.mp hrange
  obtain ⟨hamber, hwhite, -⟩ := List.nodup_append.mp (p.channelsDistinct_iff.mp hdistinct)
  unfold groupOf at h
  split at h <;> cases h
  · exact ⟨hamber, fun ch hch => Nat.lt_succ_of_le (hle ch (List.mem_append_left _ hch))⟩
  · exact ⟨hwhite, fun ch hch => Nat.lt_succ_of_le (hle ch (List.mem_append_right _ hch))⟩
  · decide

theorem exec_pwmSetgrp {s : State} {a : Byte} {chs : List Nat} (d : Byte) (h : groupOf s.cfg a = some chs) :
    exec (.pwmSetgrp a d) s = .next (respond (writeChannels (chs.map fun ch => (ch, d)) s).status
      (BitVec.ofNat 32 (writeChannels (chs.map fun ch => (ch, d)) s).count)
      (writeChannels (chs.map fun ch => (ch, d)) s).state) := by
  simp only [exec, execPwmSetgrp, h, setGroup_eq]

/-- Settles O39: the selector names a group, whose members are written best effort, or none. -/
theorem pwmSetgrpWritesEveryMember : Obligations.PwmSetgrpWritesEveryMember := by
  refine ⟨fun a d => wordP_eq_ofNat 0x22 a d, fun s a d chs answers rest hwf hsel hlen ho => ?_, fun s a d ha => ?_⟩
  · have hgroup : groupOf s.cfg a = some chs := by
      rcases hsel with ⟨rfl, rfl⟩ | ⟨rfl, rfl⟩ | ⟨rfl, rfl⟩ <;> rfl
    obtain ⟨hnodup, hlt⟩ := group_channels hwf hgroup
    have hfst : (chs.map fun ch => (ch, d)).map Prod.fst = chs := by
      rw [List.map_map]
      exact List.map_id chs
    obtain ⟨hst, hcount, hwrote⟩ := writeChannels_scripted (ds := chs.map fun ch => (ch, d)) hwf
      (List.forall_mem_map.mpr hlt) (hfst.symm ▸ hnodup) (by rw [hlen, List.length_map]) ho
    refine ⟨_, exec_pwmSetgrp d hgroup, ?_⟩
    rw [hst, hcount]
    exact hwrote _ _
  · rw [exec, execPwmSetgrp, groupOf_eq_none ha]
    rfl

/-! ## The percent conversion (R150, R151) -/

/-- Up to 100 percent the duty fits a u8. -/
theorem percentToDuty_toNat {pct : Nat} (h : pct ≤ 100) : (percentToDuty pct).toNat = (pct * 255 + 50) / 100 := by
  rw [percentToDuty, BitVec.toNat_ofNat]
  omega

/-- Settles O40. -/
theorem percentToDutyTable : Obligations.PercentToDutyTable := by
  refine ⟨by decide, fun _ => percentToDuty_toNat, fun a b hab hb => ?_⟩
  rw [percentToDuty_toNat (hab.trans hb), percentToDuty_toNat hb]
  exact Nat.div_le_div_right (by omega)

/-- Settles O41, by the range of the percent. -/
theorem pwmPct2dutyAnswers : Obligations.PwmPct2dutyAnswers := by
  refine ⟨fun p => wordB_eq_ofNat 0x23 p, fun s p hp => ?_, fun s p hp => ?_⟩
  · rw [exec, execPwmPct2duty, if_neg (Nat.not_lt.mpr hp), ← percentToDuty_toNat hp, BitVec.ofNat_toNat]
    rfl
  · rw [exec, execPwmPct2duty, if_pos hp]
    rfl

end Sys2Proof.Machine

/-! SUPPORT. The lamp command and the mixer of 42_mixing.md: the mixing function as arithmetic (O42 to O45), and from
it and the best-effort channel writes what the lamp operations and the four mixer operations do (O46 to O50). -/

namespace Sys2Proof.Machine

open Laws

/-! ## Rounding half up (00_scope.md R12) -/

section
variable {d : Nat}

/-- The quotient, and one more when the remainder is half the divisor or above. -/
theorem roundHalfUp_eq (n : Nat) (hd : 0 < d) : roundHalfUp n d = n / d + if d ≤ 2 * (n % d) then 1 else 0 := by
  have hn : 2 * n + d = 2 * d * (n / d) + (2 * (n % d) + d) := by
    linarith [Nat.div_add_mod n d]
  have hr : n % d < d := Nat.mod_lt n hd
  rw [roundHalfUp, hn, Nat.mul_add_div (Nat.mul_pos two_pos hd), Nat.add_left_cancel_iff]
  split
  · exact Nat.div_eq_of_lt_le (by omega) (by omega)
  · exact Nat.div_eq_of_lt (by omega)

theorem roundHalfUp_mul_self (k : Nat) (hd : 0 < d) : roundHalfUp (k * d) d = k := by
  rw [roundHalfUp_eq _ hd, Nat.mul_div_cancel k hd, Nat.mul_mod_left, if_neg (Nat.not_le.mpr hd), Nat.add_zero]

theorem roundHalfUp_zero (hd : 0 < d) : roundHalfUp 0 d = 0 := by
  simpa using roundHalfUp_mul_self 0 hd

theorem roundHalfUp_mono {x y : Nat} (h : x ≤ y) : roundHalfUp x d ≤ roundHalfUp y d :=
  Nat.div_le_div_right (by omega)

/-- Two parts of a whole `k * d` round to `k` together, unless both stand exactly at a half, where both round up. -/
theorem roundHalfUp_add_of_add_eq {x y k : Nat} (hd : 0 < d) (h : x + y = k * d) :
    roundHalfUp x d + roundHalfUp y d = k + if 2 * (x % d) = d then 1 else 0 := by
  have hdiv : (x + y) / d = k := by rw [h, Nat.mul_div_cancel k hd]
  have hmod : (x + y) % d = 0 := by rw [h, Nat.mul_mod_left]
  rw [Nat.add_div hd] at hdiv
  rw [Nat.add_mod_eq_ite] at hmod
  rw [roundHalfUp_eq x hd, roundHalfUp_eq y hd]
  split_ifs at hdiv hmod ⊢ <;> omega

end

/-! ## The mixing function (R160) -/

section
variable {p : Params} {m : Nat}

/-- The clamped kelvin by `min` and `max`. -/
theorem mixKelvin_eq (hp : p.kMin < p.kMax) (m : Nat) : mixKelvin p m = min (max (kelvinOf m) p.kMin) p.kMax := by
  unfold mixKelvin clamp
  split_ifs <;> omega

theorem mixKelvin_of_kMax_le (hp : p.kMin < p.kMax) (h : p.kMax ≤ kelvinOf m) : mixKelvin p m = p.kMax := by
  rw [mixKelvin_eq hp]
  omega

theorem mixKelvin_of_le_kMin (hp : p.kMin < p.kMax) (h : kelvinOf m ≤ p.kMin) : mixKelvin p m = p.kMin := by
  rw [mixKelvin_eq hp]
  omega

theorem kMin_le_mixKelvin (hp : p.kMin < p.kMax) (m : Nat) : p.kMin ≤ mixKelvin p m := by
  rw [mixKelvin_eq hp]
  omega

theorem mixKelvin_le_kMax (hp : p.kMin < p.kMax) (m : Nat) : mixKelvin p m ≤ p.kMax := by
  rw [mixKelvin_eq hp]
  omega

/-- The white weight is at most the span, so the white duty at most the brightness (R161 (c)). -/
theorem mixWhite_le (hp : p.kMin < p.kMax) (b m : Nat) : mixWhite p b m ≤ b :=
  (roundHalfUp_mono (Nat.mul_le_mul_left b (Nat.sub_le_sub_right (mixKelvin_le_kMax hp m) p.kMin))).trans_eq
    (roundHalfUp_mul_self b (Nat.sub_pos_of_lt hp))

/-- The same of the amber weight and duty. -/
theorem mixAmber_le (hp : p.kMin < p.kMax) (b m : Nat) : mixAmber p b m ≤ b :=
  (roundHalfUp_mono (Nat.mul_le_mul_left b (Nat.sub_le_sub_left (kMin_le_mixKelvin hp m) p.kMax))).trans_eq
    (roundHalfUp_mul_self b (Nat.sub_pos_of_lt hp))

/-- Full weight is the brightness, no weight is dark. -/
theorem mix_of_kMax_le (hp : p.kMin < p.kMax) (b : Nat) (h : p.kMax ≤ kelvinOf m) :
    mixAmber p b m = 0 ∧ mixWhite p b m = b := by
  have hspan := Nat.sub_pos_of_lt hp
  rw [mixAmber, mixWhite, mixKelvin_of_kMax_le hp h, Nat.sub_self, Nat.mul_zero]
  exact ⟨roundHalfUp_zero hspan, roundHalfUp_mul_self b hspan⟩

theorem mix_of_le_kMin (hp : p.kMin < p.kMax) (b : Nat) (h : kelvinOf m ≤ p.kMin) :
    mixAmber p b m = b ∧ mixWhite p b m = 0 := by
  have hspan := Nat.sub_pos_of_lt hp
  rw [mixAmber, mixWhite, mixKelvin_of_le_kMin hp h, Nat.sub_self, Nat.mul_zero]
  exact ⟨roundHalfUp_mul_self b hspan, roundHalfUp_zero hspan⟩

end

/-- Settles O42. -/
theorem mixFollowsTheFormula : Obligations.MixFollowsTheFormula := by
  intro p b m hp _
  rw [mixWhite, mixAmber, mixKelvin_eq hp, roundHalfUp, roundHalfUp, Nat.mul_assoc, Nat.mul_assoc]
  exact ⟨rfl, rfl⟩

/-- Settles O43: the two products are parts of `b * span`, so their roundings add up as `roundHalfUp_add_of_add_eq`
says. -/
theorem mixSumIsBrightnessOrOneMore : Obligations.MixSumIsBrightnessOrOneMore := by
  intro p b m hp _
  refine ⟨mixWhite_le hp _ _, mixAmber_le hp _ _, ?_⟩
  rw [Nat.add_comm (mixAmber ..)]
  apply roundHalfUp_add_of_add_eq (Nat.sub_pos_of_lt hp)
  rw [← Nat.mul_add, Nat.add_comm, tsub_add_tsub_cancel (mixKelvin_le_kMax hp _) (kMin_le_mixKelvin hp _)]

/-- Settles O44. -/
theorem mixEndsOfTheRange : Obligations.MixEndsOfTheRange := by
  refine fun p b m hp _ => ⟨?_, mix_of_kMax_le hp b.toNat, mix_of_le_kMin hp b.toNat⟩
  rintro rfl
  exact ⟨Nat.le_zero.mp (mixAmber_le hp 0 _), Nat.le_zero.mp (mixWhite_le hp 0 _)⟩

/-! ## The thresholds of the reference configuration (R169) -/

theorem le_kelvinOf_iff {m : Nat} (hm : 1 ≤ m) (k : Nat) : k ≤ kelvinOf m ↔ k * m ≤ 1000000 :=
  Nat.le_div_iff_mul_le hm

/-- Settles O45: each threshold is a product compared with 1000000 (`le_kelvinOf_iff`), and the clamp is at the same
thresholds. -/
theorem mixReferenceValues : Obligations.MixReferenceValues := by
  refine ⟨fun m hm _ => ?_, by decide, by decide, by decide, by decide, by decide⟩
  have h5000 : 5000 ≤ kelvinOf m ↔ m ≤ 200 := by rw [le_kelvinOf_iff hm]; omega
  have h2201 : 2201 ≤ kelvinOf m ↔ m ≤ 454 := by rw [le_kelvinOf_iff hm]; omega
  have h3600 : kelvinOf m ≠ 3600 := by
    have hlo := le_kelvinOf_iff hm 3600
    have hhi := le_kelvinOf_iff hm 3601
    omega
  have hclamp : mixKelvin Config.refcfg m = min (max (kelvinOf m) 2200) 5000 := mixKelvin_eq (by decide) m
  rw [hclamp]
  omega

/-! ## The value of a mixer response (R162) -/

theorem mixValue_eq_ofNat (amber white : Byte) (applied : Bool) : mixValue amber white applied =
    BitVec.ofNat 32 (white.toNat + 256 * amber.toNat + 65536 * applied.toNat) := by
  apply eq_ofNat_of_toNat_eq
  simp only [mixValue, append_toNat, BitVec.toNat_ofBool, BitVec.toNat_ofNat]
  omega

/-- A duty of the mixer is a u8 (R161 (c)). -/
theorem ofNat_toNat_of_le {n : Nat} {b : Byte} (h : n ≤ b.toNat) : (BitVec.ofNat 8 n).toNat = n :=
  BitVec.toNat_ofNat n 8 ▸ Nat.mod_eq_of_lt (h.trans_lt b.isLt)

theorem mixValue_mix {p : Params} (hwf : p.wf = true) (b : Byte) (m : Nat) (applied : Bool) :
    mixValue (BitVec.ofNat 8 (mixAmber p b.toNat m)) (BitVec.ofNat 8 (mixWhite p b.toNat m)) applied =
      BitVec.ofNat 32 (mixWhite p b.toNat m + 256 * mixAmber p b.toNat m + 65536 * applied.toNat) := by
  obtain ⟨-, -, -, hkelvin, -⟩ := p.wf_iff.mp hwf
  have hp := p.kelvinRangeOk_iff.mp hkelvin
  rw [mixValue_eq_ofNat, ofNat_toNat_of_le (mixWhite_le hp _ _), ofNat_toNat_of_le (mixAmber_le hp _ _)]

/-! ## LAMP.LOAD and mireds 0 (R162, R163, R165, R166) -/

theorem wordH_eq_ofNat (op : Byte) (x : Half) : wordH op x = BitVec.ofNat 32 (op.toNat * 2 ^ 24 + x.toNat) :=
  eq_ofNat_of_toNat_eq (wordH_toNat op x)

theorem wordL_eq_ofNat (op b : Byte) (m : Half) :
    wordL op b m = BitVec.ofNat 32 (op.toNat * 2 ^ 24 + b.toNat * 65536 + m.toNat) := by
  rw [Nat.add_assoc]
  exact eq_ofNat_of_toNat_eq (wordL_toNat op b m)

theorem exec_lampLoad {m : Half} (s : State) (b : Byte) (hm : m ≠ 0) : exec (.lampLoad b m) s =
    .next (respond .ok 0 { s with lampBrightness := b, lampMireds := m }) := by
  rw [exec, execLampLoad, if_neg hm]

theorem exec_lampLoad_zero (s : State) (b : Byte) :
    exec (.lampLoad b 0) s = .next (respond .invalidArgument 0 s) := by
  rw [exec, execLampLoad, if_pos rfl]

theorem exec_lampSetct_zero (s : State) : exec (.lampSetct 0) s = .next (respond .invalidArgument 0 s) := by
  rw [exec, execLampSetct, if_pos rfl]

theorem exec_mixApply_zero (s : State) (b : Byte) :
    exec (.mixApply b 0) s = .next (respond .invalidArgument 0 s) := by
  rw [exec, execMixApply, applyAndRespond, applyMix_zero]

/-- Settles O48. -/
theorem zeroMiredsRefused : Obligations.ZeroMiredsRefused := by
  rintro s b i (rfl | rfl | rfl)
  · exact exec_lampLoad_zero s b
  · exact exec_lampSetct_zero s
  · exact exec_mixApply_zero s b

/-- Settles O49. -/
theorem lampLoadWritesBothFields : Obligations.LampLoadWritesBothFields :=
  ⟨fun b m => wordL_eq_ofNat 0x30 b m, fun s b _ hm => exec_lampLoad s b hm, exec_lampLoad_zero⟩

/-! ## The four mixer operations (R164 to R167) -/

section
variable {s u : State} {i : Instr} {b : Byte} {m : Half}

/-- With non-zero mireds a mixer operation writes its register, if it has one, and then applies. -/
theorem MixOp.exec_eq (h : MixOp s i b m u) (hm : m ≠ 0) : exec i s = .next (applyAndRespond b m u) := by
  cases h with
  | lampSetct => rw [exec, execLampSetct, if_neg hm]
  | mixApply | mixRecall | lampSetb => rfl

/-- The register written is LAMP_BRIGHTNESS or LAMP_MIREDS. -/
theorem MixOp.frame (h : MixOp s i b m u) :
    u = { s with lampBrightness := u.lampBrightness, lampMireds := u.lampMireds } := by
  cases h <;> rfl

theorem MixOp.cfg (h : MixOp s i b m u) : u.cfg = s.cfg := by rw [h.frame]
theorem MixOp.animState (h : MixOp s i b m u) : u.animState = s.animState := by rw [h.frame]
theorem MixOp.oracle (h : MixOp s i b m u) : u.oracle = s.oracle := by rw [h.frame]
theorem MixOp.answeredWith (h : MixOp s i b m u) (st : Status) (v : Word) :
    answeredWith u st v = answeredWith s st v := by rw [h.frame]; rfl

/-- Outside Idle `apply` only answers. -/
theorem applyAndRespond_gated (hwf : u.cfg.wf = true) (hs : u.animState ≠ .idle) (hm : m ≠ 0) :
    applyAndRespond b m u = respond .ok
      (BitVec.ofNat 32 (mixWhite u.cfg b.toNat m.toNat + 256 * mixAmber u.cfg b.toNat m.toNat)) u := by
  rw [applyAndRespond, applyMix_gated b hm hs, mixValue_mix hwf]
  rfl

/-- The mixer drives the members of the amber group, then those of the white group: different channels of the ring
(00_scope.md R10). -/
theorem mixDuties_fst (p : Params) (b m : Nat) : (mixDuties p b m).map Prod.fst = p.amberCh ++ p.whiteCh := by
  simp [mixDuties, Function.comp_def]

theorem mixDuties_length (p : Params) (b m : Nat) :
    (mixDuties p b m).length = p.amberCh.length + p.whiteCh.length := by
  rw [← List.length_map (f := Prod.fst), mixDuties_fst, List.length_append]

theorem mixDuties_channels {p : Params} (hwf : p.wf = true) (b m : Nat) :
    (∀ x ∈ mixDuties p b m, x.1 < 8) ∧ ((mixDuties p b m).map Prod.fst).Nodup := by
  obtain ⟨-, hrange, hdistinct, -⟩ := p.wf_iff.mp hwf
  rw [← List.forall_mem_map (P := (· < 8)), mixDuties_fst]
  exact ⟨fun c hc => Nat.lt_succ_of_le (p.channelsInRange_iff.mp hrange c hc), p.channelsDistinct_iff.mp hdistinct⟩

/-- In Idle `apply` is the best-effort run over both groups, then the response. -/
theorem applyAndRespond_idle {answers rest : List BusAnswer} (hwf : u.cfg.wf = true) (hs : u.animState = .idle)
    (hm : m ≠ 0) (hlen : answers.length = u.cfg.amberCh.length + u.cfg.whiteCh.length)
    (ho : u.oracle = answers ++ rest) :
    WroteChannels u (mixDuties u.cfg b.toNat m.toNat) (answers.map answerOk) rest
      (bestEffortStatus (answers.map answerOk))
      (BitVec.ofNat 32 (mixWhite u.cfg b.toNat m.toNat + 256 * mixAmber u.cfg b.toNat m.toNat + 65536))
      (applyAndRespond b m u) := by
  obtain ⟨hch, hnd⟩ := mixDuties_channels hwf b.toNat m.toNat
  obtain ⟨hst, -, hwrote⟩ :=
    writeChannels_scripted hwf hch hnd (hlen.trans (mixDuties_length ..).symm) ho
  rw [applyAndRespond, applyMix_idle b hm hs, mixValue_mix hwf, hst]
  exact hwrote _ _

end

/-- Settles O46: the operation comes down to `apply` in the state with its register written (`MixOp.exec_eq`). -/
theorem mixerDrivesBothGroupsInIdle : Obligations.MixerDrivesBothGroupsInIdle := by
  refine ⟨fun b => wordB_eq_ofNat 0x31 b, fun m => wordH_eq_ofNat 0x32 m, fun b m => wordL_eq_ofNat 0x33 b m, rfl,
    fun s u i b m answers rest hop hwf hs hm hlen ho => ⟨_, hop.exec_eq hm, ?_⟩⟩
  rw [← hop.cfg] at hwf hlen ⊢
  exact applyAndRespond_idle hwf (hop.animState.trans hs) hm hlen (hop.oracle.trans ho)

/-- Settles O47. -/
theorem mixerIsGatedOutsideIdle : Obligations.MixerIsGatedOutsideIdle := by
  intro s u i b m hop hwf hs hm
  rw [← hop.answeredWith]
  rw [← hop.cfg] at hwf ⊢
  rw [← hop.animState] at hs
  rw [hop.exec_eq hm, applyAndRespond_gated hwf hs hm]
  rfl

/-! ## The mixer applied twice (R168 (a)) -/

section
variable {u t : State} {ds : List (Nat × Byte)} {oks : List Bool} {rest : List BusAnswer} {st : Status} {v : Word}

theorem WroteChannels.cfg (h : WroteChannels u ds oks rest st v t) : t.cfg = u.cfg := by rw [h.1]
theorem WroteChannels.animState (h : WroteChannels u ds oks rest st v t) : t.animState = u.animState := by rw [h.1]
theorem WroteChannels.oracle (h : WroteChannels u ds oks rest st v t) : t.oracle = rest := by rw [h.1]

/-- When every write succeeded, every channel holds its duty. -/
theorem WroteChannels.duty_of_all_ok {answers : List BusAnswer}
    (h : WroteChannels u ds (answers.map answerOk) rest st v t) (hok : answers.all answerOk = true)
    (hlen : answers.length = ds.length) {ch : Nat} {d : Byte} (hx : (ch, d) ∈ ds) : t.duty ch = some d := by
  obtain ⟨-, hduty, -⟩ := h
  obtain ⟨k, hk⟩ := List.mem_iff_getElem?.mp hx
  obtain ⟨hlt, -⟩ := List.getElem?_eq_some_iff.mp hk
  have hkok : (answers.map answerOk)[k]? = some true := by
    rw [List.getElem?_map, List.getElem?_eq_getElem (hlen ▸ hlt), Option.map_some,
      List.all_eq_true.mp hok _ (List.getElem_mem _)]
  rw [hduty k ch d hk, if_pos hkok]

end

/-- Settles O50: after either call each driven channel holds its group's duty, and the second call touches no other
register. -/
theorem applyIsIdempotent : Obligations.ApplyIsIdempotent := by
  intro s b m answers answers' rest hwf hs hm hok hok' hlen hlen' ho
  rw [List.append_assoc] at ho
  have hfirst := applyAndRespond_idle (b := b) hwf hs hm hlen ho
  have hcfg := hfirst.cfg
  have hsecond := applyAndRespond_idle (b := b) (hcfg ▸ hwf) (hfirst.animState.trans hs) hm
    (hcfg ▸ hlen'.trans hlen) hfirst.oracle
  rw [hcfg] at hsecond
  have hds := hlen.trans (mixDuties_length s.cfg b.toNat m.toNat).symm
  refine ⟨_, _, (MixOp.mixApply b m).exec_eq hm, (MixOp.mixApply b m).exec_eq hm, fun r => ?_, fun ch hch => ?_,
    fun ch hch => ?_⟩
  · by_cases hr : ∃ x ∈ mixDuties s.cfg b.toNat m.toNat, r = (dutyReg s.cfg x.1).toNat
    · obtain ⟨⟨ch, d⟩, hx, rfl⟩ := hr
      have hduty := hfirst.duty_of_all_ok hok hds hx
      have hduty' := hsecond.duty_of_all_ok hok' (hlen'.trans hds) hx
      rw [State.duty, hcfg] at hduty
      rw [State.duty, hsecond.cfg, hcfg] at hduty'
      rw [hduty, hduty']
    · obtain ⟨-, -, hother⟩ := hsecond
      exact hother r fun x hx heq => hr ⟨x, hx, hcfg ▸ heq⟩
  · exact hfirst.duty_of_all_ok hok hds (List.mem_append_left _ (List.mem_map_of_mem hch))
  · exact hfirst.duty_of_all_ok hok hds (List.mem_append_right _ (List.mem_map_of_mem hch))

end Sys2Proof.Machine

/-! SUPPORT. The animation of 43_animation.md: the waveform, the two frame sequences as lists, and the seven operations
(O51 to O60). -/

namespace Sys2Proof.Machine

open Laws

/-! ## The four transitions and ANIM.BRINIT (R185 to R189) -/

theorem wordW_eq_ofNat (op : Byte) (f : Turn) : wordW op f = BitVec.ofNat 32 (op.toNat * 2 ^ 24 + f.toNat) :=
  eq_ofNat_of_toNat_eq (wordW_toNat op f)

/-- Settles O51: each transition is `enterState`, then the response. -/
theorem transitionsAreOneWrite : Obligations.TransitionsAreOneWrite :=
  ⟨⟨rfl, rfl, rfl, rfl⟩, fun _ => ⟨rfl, rfl, rfl, rfl⟩⟩

/-- Settles O52. -/
theorem brinitRestartsPhase : Obligations.BrinitRestartsPhase :=
  ⟨fun f => wordW_eq_ofNat 0x41 f, fun _ _ => rfl⟩

/-! ## The waveform (R182, R183) -/

theorem sinePct_length : sinePct.length = 256 := by decide +kernel

theorem sinePct_le : ∀ e ∈ sinePct, e ≤ 100 := by decide +kernel

/-- The top byte of the phase selects the entry. -/
theorem breathPct_eq (ph : Turn) : breathPct ph = sinePct.getD (ph.toNat / 65536) 0 := by
  have hindex : (ph.extractLsb' 16 8).toNat = ph.toNat / 65536 := by
    rw [BitVec.extractLsb'_toNat, Nat.shiftRight_eq_div_pow]
    omega
  rw [breathPct, hindex]

/-- Settles O56: the checks run over the 256 entries; the waveform is `breathPct_eq`. -/
theorem sineTableChecks : Obligations.SineTableChecks :=
  ⟨sinePct_length, by decide +kernel, sinePct_le, by decide +kernel, by decide +kernel, by decide, by decide,
    by decide, by decide, fun ph => congrArg percentToDuty (breathPct_eq ph)⟩

end Sys2Proof.Machine

/-! SUPPORT. The boot and the blink sequence of 43_animation.md R190 and R191 as lists: their lengths, each of their
frames, and the dark frame both end with (O57, O58). -/

namespace Sys2Proof.Machine

/-! ## Lists -/

section
variable {α : Type} (l : List α)

theorem length_rounds (n : Nat) : ((List.range n).flatMap fun _ => l).length = n * l.length := by
  simp [List.length_flatMap]

/-- Place `i` of round `k` in a list that repeats `l`. -/
theorem getElem?_rounds {n k i : Nat} (hk : k < n) (hi : i < l.length) :
    ((List.range n).flatMap fun _ => l)[k * l.length + i]? = l[i]? := by
  induction n with
  | zero => omega
  | succ n ih =>
    rw [List.range_succ, List.flatMap_append, List.flatMap_singleton]
    rcases Nat.lt_succ_iff_lt_or_eq.mp hk with hlt | rfl
    · have hplace : k * l.length + i < n * l.length := by
        have := Nat.mul_le_mul_right l.length (Nat.succ_le_of_lt hlt)
        rw [Nat.succ_mul] at this
        omega
      rw [List.getElem?_append_left (by rwa [length_rounds]), ih hlt]
    · rw [List.getElem?_append_right (by rw [length_rounds]; omega), length_rounds, Nat.add_sub_cancel_left]

end

/-! ## The ramp (R190) -/

section
variable (p : Params)

theorem rampUpLevels_length : (rampUpLevels p).length = p.rampUp + 1 := by
  rw [rampUpLevels, List.length_map, List.length_range, Params.rampUp]

theorem rampUpLevels_getElem? {k : Nat} (hk : k ≤ p.rampUp) :
    (rampUpLevels p)[k]? = some (min 100 (k * p.rampStepPct)) := by
  rw [rampUpLevels, List.getElem?_map]
  exact congrArg (Option.map _) (List.getElem?_range (Nat.lt_succ_of_le hk))

theorem rampLevels_length : (rampLevels p).length = 2 * p.rampUp + 1 := by
  rw [rampLevels, List.length_append, List.length_tail, List.length_reverse, rampUpLevels_length]
  omega

/-- Up to the top, then down again: level `k` has as many steps as the nearer end of the ramp is away. -/
theorem rampLevels_getElem? {k : Nat} (hk : k ≤ 2 * p.rampUp) :
    (rampLevels p)[k]? = some (min 100 (min k (2 * p.rampUp - k) * p.rampStepPct)) := by
  have hlen := rampUpLevels_length p
  by_cases hup : k ≤ p.rampUp
  · have hmin : min k (2 * p.rampUp - k) = k := by omega
    rw [rampLevels, List.getElem?_append_left (by omega), rampUpLevels_getElem? p hup, hmin]
  · have hmin : min k (2 * p.rampUp - k) = 2 * p.rampUp - k := by omega
    rw [rampLevels, List.getElem?_append_right (by omega), List.getElem?_tail, List.getElem?_reverse (by omega), hlen,
      show p.rampUp + 1 - 1 - (k - (p.rampUp + 1) + 1) = 2 * p.rampUp - k by omega,
      rampUpLevels_getElem? p (by omega), hmin]

theorem rampFrames_length : (rampFrames p).length = 2 * p.rampUp + 1 := by
  rw [rampFrames, List.length_map, rampLevels_length]

theorem rampFrames_getElem? {k : Nat} (hk : k ≤ 2 * p.rampUp) : (rampFrames p)[k]? =
    some (uniformFrame (min 100 (min k (2 * p.rampUp - k) * p.rampStepPct)) p.rampDelayMs) := by
  rw [rampFrames, List.getElem?_map, rampLevels_getElem? p hk, Option.map_some]

/-- The ramp ends dark. -/
theorem rampFrames_getLast? : (rampFrames p).getLast? = some (uniformFrame 0 p.rampDelayMs) := by
  rw [List.getLast?_eq_getElem?, rampFrames_length, Nat.add_sub_cancel, rampFrames_getElem? p le_rfl]
  simp

/-! ## The spin (R190) -/

/-- The eight frames of one rotation, one a head. -/
def rotationFrames : List Frame := (List.range Config.nCh).map fun h => ⟨spinLevels p h, p.spinDelayMs⟩

theorem spinFrames_eq : spinFrames p = (List.range p.spinRotations).flatMap fun _ => rotationFrames p := rfl

theorem rotationFrames_length : (rotationFrames p).length = 8 := by
  rw [rotationFrames, List.length_map, List.length_range]
  rfl

theorem rotationFrames_getElem? {h : Nat} (hh : h < 8) :
    (rotationFrames p)[h]? = some ⟨spinLevels p h, p.spinDelayMs⟩ := by
  rw [rotationFrames, List.getElem?_map]
  exact congrArg (Option.map _) (List.getElem?_range hh)

theorem spinFrames_length : (spinFrames p).length = p.spinRotations * 8 := by
  rw [spinFrames_eq, length_rounds, rotationFrames_length]

theorem spinFrames_getElem? {rot h : Nat} (hrot : rot < p.spinRotations) (hh : h < 8) :
    (spinFrames p)[rot * 8 + h]? = some ⟨spinLevels p h, p.spinDelayMs⟩ := by
  have hlen := rotationFrames_length p
  have hplace := getElem?_rounds (rotationFrames p) hrot (hlen.symm ▸ hh)
  rwa [hlen, rotationFrames_getElem? p hh, ← spinFrames_eq] at hplace

theorem spinLevels_length (h : Nat) : (spinLevels p h).length = 8 := by
  rw [spinLevels, List.length_map, List.length_range]
  rfl

/-- The level at a position, by its directed distance behind the head as an integer remainder. -/
theorem spinLevels_getElem? {h pos : Nat} (hh : h < 8) (hpos : pos < 8) : (spinLevels p h)[pos]? =
    some (Int.toNat ((p.spinHeadPct : Int) - ((h : Int) - (pos : Int)) % 8 * (p.spinTrailStepPct : Int))) := by
  have hdist : ((h : Int) - (pos : Int)) % 8 = (((h + 8 - pos) % 8 : Nat) : Int) := by omega
  rw [spinLevels, List.getElem?_map, hdist, ← Int.natCast_mul, Int.toNat_sub]
  exact congrArg (Option.map _) (List.getElem?_range hpos)

/-! ## The boot sequence (R190) -/

/-- Both variants end with the ramp. -/
theorem bootFrames_eq :
    bootFrames p = (if p.bootVariant = .trailSpin then spinFrames p else []) ++ rampFrames p := by
  unfold bootFrames
  cases p.bootVariant <;> rfl

theorem bootFrames_length : (bootFrames p).length = p.bootFrameCount := by
  rw [bootFrames_eq, List.length_append, rampFrames_length, p.bootFrameCount_eq, Params.rampUp]
  split
  · rw [spinFrames_length, Nat.add_comm]
  · rw [List.length_nil, Nat.add_comm]

theorem bootFrames_getLast? : (bootFrames p).getLast? = some (uniformFrame 0 p.rampDelayMs) := by
  rw [bootFrames_eq, List.getLast?_append, rampFrames_getLast?, Option.some_or]

/-- A frame of the boot sequence is a frame of the spin or of the ramp. -/
theorem bootFrames_cases {f : Frame} (hf : f ∈ bootFrames p) :
    (∃ h, f = ⟨spinLevels p h, p.spinDelayMs⟩) ∨ ∃ l ≤ 100, f = uniformFrame l p.rampDelayMs := by
  rw [bootFrames_eq, List.mem_append] at hf
  rcases hf with hspin | hramp
  · left
    split at hspin
    · obtain ⟨-, -, hrot⟩ := List.mem_flatMap.mp hspin
      obtain ⟨h, -, rfl⟩ := List.mem_map.mp hrot
      exact ⟨h, rfl⟩
    · cases hspin
  · right
    obtain ⟨k, hk⟩ := List.mem_iff_getElem?.mp hramp
    obtain ⟨hlt, -⟩ := List.getElem?_eq_some_iff.mp hk
    rw [rampFrames_length] at hlt
    rw [rampFrames_getElem? p (Nat.le_of_lt_succ hlt)] at hk
    exact ⟨_, Nat.min_le_left .., (Option.some.inj hk).symm⟩

theorem uniformFrame_levels_length (l hold : Nat) : (uniformFrame l hold).levels.length = 8 := List.length_replicate

theorem bootFrames_levels_length {f : Frame} (hf : f ∈ bootFrames p) : f.levels.length = 8 := by
  rcases bootFrames_cases p hf with ⟨h, rfl⟩ | ⟨l, -, rfl⟩
  · exact spinLevels_length p h
  · exact uniformFrame_levels_length ..

theorem bootFrames_levels_le (hwf : p.wf = true) {f : Frame} (hf : f ∈ bootFrames p) : ∀ l ∈ f.levels, l ≤ 100 := by
  obtain ⟨-, -, -, -, -, -, hpercents, -⟩ := p.wf_iff.mp hwf
  obtain ⟨hhead, -⟩ := p.percentsOk_iff.mp hpercents
  rcases bootFrames_cases p hf with ⟨h, rfl⟩ | ⟨l, hl, rfl⟩
  · exact List.forall_mem_map.mpr fun _ _ => (Nat.sub_le _ _).trans hhead
  · exact fun _ hx => List.eq_of_mem_replicate hx ▸ hl

end

/-- Settles O57: the frames are those of the spin and the ramp, found at their places in `bootFrames_eq`. -/
theorem bootFramesAreTheSequence : Obligations.BootFramesAreTheSequence := by
  refine fun p hwf => ⟨bootFrames_length p,
    fun f hf => ⟨bootFrames_levels_length p hf, bootFrames_levels_le p hwf hf⟩,
    congrArg (Option.map Frame.levels) (bootFrames_getLast? p), fun hv => ?_, fun hv => ?_⟩
  · have heq : bootFrames p = rampFrames p := by rw [bootFrames_eq, hv]; rfl
    rw [← bootFrames_length, heq]
    exact ⟨rampFrames_length p, fun k => rampFrames_getElem? p⟩
  · have heq : bootFrames p = spinFrames p ++ rampFrames p := by rw [bootFrames_eq, hv]; rfl
    have hspin := spinFrames_length p
    rw [← bootFrames_length, heq]
    refine ⟨by rw [List.length_append, hspin, rampFrames_length], fun k hk => ?_, fun rot h pos hrot hh hpos => ?_⟩
    · rw [List.getElem?_append_right (by omega), hspin, Nat.add_sub_cancel_left]
      exact rampFrames_getElem? p hk
    · refine ⟨⟨spinLevels p h, p.spinDelayMs⟩, ?_, rfl, spinLevels_getElem? p hh hpos⟩
      rw [List.getElem?_append_left (by omega)]
      exact spinFrames_getElem? p hrot hh

/-! ## The blink sequence (R191) -/

section
variable (p : Params)

theorem blinkFrames_length : (blinkFrames p).length = p.blinkFrameCount := by
  rw [blinkFrames, List.length_cons, length_rounds, Params.blinkFrameCount, Nat.mul_comm]
  rfl

/-- Pulse `k` is the frames 2k + 1 and 2k + 2. -/
theorem blinkFrames_getElem? {k i : Nat} (hk : k < p.blinkCount) (hi : i < 2) : (blinkFrames p)[2 * k + i + 1]? =
    [uniformFrame p.blinkOnPct p.blinkOnMs, uniformFrame 0 p.blinkOffMs][i]? := by
  rw [blinkFrames, List.getElem?_cons_succ, Nat.mul_comm 2]
  exact getElem?_rounds _ hk hi

/-- The last frame is the off half of the last pulse, or frame 0 where there is none. -/
theorem blinkFrames_getLast?_levels :
    (blinkFrames p).getLast?.map Frame.levels = some (List.replicate 8 0) := by
  rw [List.getLast?_eq_getElem?, blinkFrames_length, Params.blinkFrameCount, Nat.add_sub_cancel]
  cases hcount : p.blinkCount with
  | zero => rfl
  | succ n =>
    rw [Nat.mul_succ, blinkFrames_getElem? p (k := n) (i := 1) (by omega) (by decide)]
    rfl

theorem blinkFrames_levels_length {f : Frame} (hf : f ∈ blinkFrames p) : f.levels.length = 8 := by
  rcases List.mem_cons.mp hf with rfl | hpulse
  · exact uniformFrame_levels_length ..
  · obtain ⟨-, -, hf⟩ := List.mem_flatMap.mp hpulse
    simp only [List.mem_cons, List.not_mem_nil, or_false] at hf
    rcases hf with rfl | rfl
    · exact uniformFrame_levels_length ..
    · exact uniformFrame_levels_length ..

end

/-- Settles O58. -/
theorem blinkFramesAreTheSequence : Obligations.BlinkFramesAreTheSequence := fun p =>
  ⟨blinkFrames_length p, rfl,
    fun _ hk => ⟨blinkFrames_getElem? p (i := 0) hk (by decide), blinkFrames_getElem? p (i := 1) hk (by decide)⟩,
    blinkFrames_getLast?_levels p⟩

end Sys2Proof.Machine

/-! SUPPORT. The seven operations of 43_animation.md over the state: ANIM.TICK (O54, O55), ANIM.STEP (O59, O60) and the
transition table (O53). -/

namespace Sys2Proof.Machine

open Laws

/-! ## Repetition -/

/-- One more time is the operation once more, at the end. -/
theorem repeatOp_succ {i : Instr} {n : Nat} {s u : State} (h : repeatOp i n s = .next u) :
    repeatOp i (n + 1) s = exec i u := by
  induction n generalizing s with
  | zero =>
    cases h
    rw [repeatOp]
    cases exec i u <;> rfl
  | succ n ih =>
    rw [repeatOp] at h ⊢
    cases hs : exec i s with
    | next t => rw [hs] at h; exact ih h
    | fault r => rw [hs] at h; cases h
    | refused r => rw [hs] at h; cases h

/-! ## ANIM.TICK (R192) -/

theorem exec_animTick_other {s : State} (hs : s.animState ≠ .breathing) :
    exec .animTick s = .next (respond .ok 0 s) := by
  rw [exec, execAnimTick, if_neg hs]

/-- In Breathing the phase advances, and its duty goes to all channels. -/
theorem exec_animTick_breathing {s : State} (hs : s.animState = .breathing) : exec .animTick s =
    .next (respond
      (setGroup Config.allCh (breathDuty (s.phase + s.freq)) { s with phase := s.phase + s.freq }).status
      (tickValue (breathDuty (s.phase + s.freq)))
      (setGroup Config.allCh (breathDuty (s.phase + s.freq)) { s with phase := s.phase + s.freq }).state) := by
  rw [exec, execAnimTick, if_pos hs]

theorem tickValue_eq_ofNat (duty : Byte) : tickValue duty = BitVec.ofNat 32 (duty.toNat + 65536) := by
  apply eq_ofNat_of_toNat_eq
  simp only [tickValue, append_toNat, BitVec.toNat_ofNat]
  omega

/-- The duty at a phase, by the table's entry there. -/
theorem breathDuty_of_entry {ph : Turn} {pct : Nat} (h : sinePct[ph.toNat / 65536]? = some pct) :
    breathDuty ph = percentToDuty pct := by
  rw [breathDuty, breathPct_eq, List.getD_eq_getElem?_getD, h, Option.getD_some]

/-- Settles O54: a tick in Breathing is a best-effort run over the ring in the state with the phase advanced. -/
theorem tickAdvancesAndWrites : Obligations.TickAdvancesAndWrites := by
  refine ⟨rfl, fun s hs => exec_animTick_other hs, fun s ph pct answers rest hwf hs hph hpct hlen ho => ?_⟩
  obtain rfl : ph = s.phase + s.freq := BitVec.eq_of_toNat_eq (hph.trans (BitVec.toNat_add ..).symm)
  have hle : pct ≤ 100 := sinePct_le pct (List.mem_of_getElem? hpct)
  obtain ⟨hst, -, hwrote⟩ := writeChannels_scripted (s := { s with phase := s.phase + s.freq })
    (ds := Config.allCh.map fun ch => (ch, percentToDuty pct)) hwf
    (List.forall_mem_map.mpr fun _ => allCh_lt) (by decide : Config.allCh.Nodup) hlen ho
  rw [exec_animTick_breathing hs, breathDuty_of_entry hpct, setGroup_eq, hst, tickValue_eq_ofNat,
    percentToDuty_toNat hle]
  exact ⟨_, rfl, hwrote _ _⟩

/-- What a tick in Breathing leaves, whatever the bus does. -/
theorem animTick_phase {s : State} (hs : s.animState = .breathing) : ∃ t, exec .animTick s = .next t ∧
    t.animState = .breathing ∧ t.freq = s.freq ∧ t.phase = s.phase + s.freq := by
  obtain ⟨l, hi⟩ := writeChannels_issued (Config.allCh.map fun ch => (ch, breathDuty (s.phase + s.freq)))
    { s with phase := s.phase + s.freq }
  exact ⟨_, exec_animTick_breathing hs, hi.animState.trans hs, hi.freq, hi.phase⟩

/-- Settles O55, by induction on the number of ticks. -/
theorem phaseAfterTicks : Obligations.PhaseAfterTicks := by
  intro s k hs
  induction k with
  | zero => exact ⟨s, rfl, hs, rfl, by have := s.phase.isLt; omega⟩
  | succ k ih =>
    obtain ⟨u, hu, hus, hufreq, huphase⟩ := ih
    obtain ⟨t, ht, hts, htfreq, htphase⟩ := animTick_phase hus
    refine ⟨t, (repeatOp_succ hu).trans ht, hts, htfreq.trans hufreq, ?_⟩
    rw [htphase, BitVec.toNat_add, huphase, hufreq, Nat.mod_add_mod, Nat.succ_mul, Nat.add_assoc]

/-! ## The running sequence -/

theorem runningFrames_eq_some {s : State} {frames : List Frame} : runningFrames s = some frames ↔
    (s.animState = .bootSequence ∧ frames = bootFrames s.cfg) ∨
      (s.animState = .confirmationBlink ∧ frames = blinkFrames s.cfg) := by
  unfold runningFrames
  cases s.animState <;> simp [eq_comm]

section
variable {s : State} {frames : List Frame}

theorem runningFrames_levels_length (hf : runningFrames s = some frames) {f : Frame} (h : f ∈ frames) :
    f.levels.length = 8 := by
  rcases runningFrames_eq_some.mp hf with ⟨-, rfl⟩ | ⟨-, rfl⟩
  · exact bootFrames_levels_length _ h
  · exact blinkFrames_levels_length _ h

/-- Both sequences end dark. -/
theorem runningFrames_getLast?_levels (hf : runningFrames s = some frames) :
    frames.getLast?.map Frame.levels = some (List.replicate 8 0) := by
  rcases runningFrames_eq_some.mp hf with ⟨-, rfl⟩ | ⟨-, rfl⟩
  · exact congrArg (Option.map Frame.levels) (bootFrames_getLast? _)
  · exact blinkFrames_getLast?_levels _

/-- Under a checked configuration SEQ_IDX can count the frames (00_scope.md R10). -/
theorem runningFrames_length_lt (hwf : s.cfg.wf = true) (hf : runningFrames s = some frames) :
    frames.length < 65536 := by
  obtain ⟨-, -, -, -, -, -, -, hcounts, -⟩ := s.cfg.wf_iff.mp hwf
  obtain ⟨hboot, hblink⟩ : s.cfg.bootFrameCount < 65536 ∧ s.cfg.blinkFrameCount < 65536 := of_decide_eq_true hcounts
  rcases runningFrames_eq_some.mp hf with ⟨-, rfl⟩ | ⟨-, rfl⟩
  · rwa [bootFrames_length]
  · rwa [blinkFrames_length]

/-- At the last frame, by the counts of 00_scope.md R10. -/
theorem atLastFrame_iff :
    (s.animState = .bootSequence ∧ s.seqIdx.toNat + 1 = s.cfg.bootFrameCount) ∨
      (s.animState = .confirmationBlink ∧ s.seqIdx.toNat + 1 = s.cfg.blinkFrameCount) ↔
    ∃ frames, runningFrames s = some frames ∧ s.seqIdx.toNat + 1 = frames.length := by
  unfold runningFrames
  cases s.animState <;> simp [bootFrames_length, blinkFrames_length]

end

/-! ## The writes of a frame do not look at the sequence -/

/-- The state at another place of the animation machine. -/
def State.withSequence (a : AnimState) (k : Half) (s : State) : State := { s with animState := a, seqIdx := k }

theorem setChannel_withSequence (ch : Nat) (duty : Byte) (a : AnimState) (k : Half) (s : State) :
    setChannel ch duty (s.withSequence a k) =
      ((setChannel ch duty s).1, (setChannel ch duty s).2.withSequence a k) := by
  unfold setChannel
  split <;> rfl

theorem writeChannels_withSequence (ds : List (Nat × Byte)) (a : AnimState) (k : Half) (s : State) :
    writeChannels ds (s.withSequence a k) =
      { writeChannels ds s with state := (writeChannels ds s).state.withSequence a k } := by
  induction ds generalizing s with
  | nil => rfl
  | cons x ds ih => simp only [writeChannels, setChannel_withSequence, ih]

/-! ## ANIM.STEP (R194) -/

/-- The state at the next place of a sequence of `n` frames: the next frame, or Idle after the last. -/
def State.advance (n : Nat) (s : State) : State :=
  if s.seqIdx.toNat + 1 = n then s.withSequence .idle 0 else s.withSequence s.animState (s.seqIdx + 1)

section
variable {s : State} {n : Nat}

theorem advance_last (h : s.seqIdx.toNat + 1 = n) : s.advance n = s.withSequence .idle 0 := if_pos h

theorem advance_more (h : s.seqIdx.toNat + 1 ≠ n) : s.advance n = s.withSequence s.animState (s.seqIdx + 1) := if_neg h

theorem advance_animState : (s.advance n).animState = if s.seqIdx.toNat + 1 = n then .idle else s.animState :=
  apply_ite State.animState ..

@[simp] theorem advance_cfg : (s.advance n).cfg = s.cfg := by unfold State.advance; split <;> rfl
theorem advance_wf (hwf : s.cfg.wf = true) : (s.advance n).cfg.wf = true := by rwa [advance_cfg]
@[simp] theorem advance_oracle : (s.advance n).oracle = s.oracle := by unfold State.advance; split <;> rfl

end

section
variable {s : State} {frames : List Frame} {frame : Frame}

/-- ANIM.STEP in a sequence advances and writes one frame; in that order here, since the writes do not look at the
sequence. -/
theorem exec_animStep_frame (hf : runningFrames s = some frames) (hk : frames[s.seqIdx.toNat]? = some frame) :
    exec .animStep s = .next (respond (applyFrame frame.levels (s.advance frames.length)).status
      (stepValue s.seqIdx (decide (s.seqIdx.toNat + 1 = frames.length)))
      (applyFrame frame.levels (s.advance frames.length)).state) := by
  have hseq : ∀ a k, applyFrame frame.levels (s.withSequence a k) = { applyFrame frame.levels s with
      state := (applyFrame frame.levels s).state.withSequence a k } := fun a k => writeChannels_withSequence _ a k s
  obtain ⟨l, hi⟩ : ∃ l, Issued s l (applyFrame frame.levels s).state := writeChannels_issued _ s
  by_cases hl : s.seqIdx.toNat + 1 = frames.length
  · rw [advance_last hl, hseq, decide_eq_true hl]
    exact execAnimStep_last hf hk hl
  · rw [advance_more hl, hseq, decide_eq_false hl, ← hi.animState]
    exact execAnimStep_more hf hk hl

/-- ANIM.STEP answers in a sequence only where there is a frame (10_state.md R28). -/
theorem frame_of_exec_animStep {t : State} (hf : runningFrames s = some frames) (h : exec .animStep s = .next t) :
    ∃ frame, frames[s.seqIdx.toNat]? = some frame := by
  cases hk : frames[s.seqIdx.toNat]? with
  | none => simp only [exec, execAnimStep, hf, hk] at h; cases h
  | some frame => exact ⟨frame, rfl⟩

end

theorem stepValue_eq_ofNat (idx : Half) (last : Bool) :
    stepValue idx last = BitVec.ofNat 32 (idx.toNat + 65536 + 131072 * last.toNat) := by
  apply eq_ofNat_of_toNat_eq
  simp only [stepValue, append_toNat, BitVec.toNat_ofBool, BitVec.toNat_ofNat]
  omega

/-- A frame has one duty for each channel of the ring. -/
theorem frameDuties_fst {levels : List Nat} (h : levels.length = 8) :
    (Config.allCh.zip (levels.map percentToDuty)).map Prod.fst = Config.allCh :=
  List.map_fst_zip (by rw [List.length_map, h]; rfl)

theorem frameDuties_length {levels : List Nat} (h : levels.length = 8) :
    (Config.allCh.zip (levels.map percentToDuty)).length = 8 := by
  rw [← List.length_map (f := Prod.fst), frameDuties_fst h]
  rfl

/-- Settles O59: a step in a sequence is a best-effort run of the frame's duties in the advanced state. -/
theorem stepPerformsOneFrame : Obligations.StepPerformsOneFrame := by
  refine ⟨rfl, fun s hs => execAnimStep_none (runningFrames_none.mpr hs),
    fun s frames frame answers rest hwf hseq hk hlen ho => ?_⟩
  have hf := runningFrames_eq_some.mpr hseq
  have hlevels := runningFrames_levels_length hf (List.mem_of_getElem? hk)
  obtain ⟨hst, -, hwrote⟩ := writeChannels_scripted (s := s.advance frames.length)
    (ds := Config.allCh.zip (frame.levels.map percentToDuty)) (advance_wf hwf) (fun x => frameChannels_lt)
    (by rw [frameDuties_fst hlevels]; decide) (hlen.trans (frameDuties_length hlevels).symm)
    (advance_oracle.trans ho)
  refine ⟨_, exec_animStep_frame hf hk, ?_⟩
  rw [stepValue_eq_ofNat, applyFrame, hst]
  have hidx : BitVec.ofNat 16 (s.seqIdx.toNat + 1) = s.seqIdx + 1 := by
    rw [BitVec.ofNat_add, BitVec.ofNat_toNat, BitVec.setWidth_eq]
    rfl
  rw [hidx]
  by_cases hl : s.seqIdx.toNat + 1 = frames.length
  · rw [advance_last hl] at hwrote ⊢
    rw [if_pos hl, if_pos hl, decide_eq_true hl]
    exact hwrote _ _
  · rw [advance_more hl] at hwrote ⊢
    rw [if_neg hl, if_neg hl, decide_eq_false hl]
    exact hwrote _ _

/-- When every write of a run over different channels succeeded, every channel holds its duty. -/
theorem Issued.duty_of_allOk {s u : State} {ds : List (Nat × Byte)} {oks : List Bool} (hwf : s.cfg.wf = true)
    (hch : ∀ x ∈ ds, x.1 < 8) (hnd : (ds.map Prod.fst).Nodup) (hlen : oks.length = ds.length)
    (hi : Issued s (pwmEntries s.cfg (dutyWrites s.cfg ds) oks) u)
    (hok : AllOk (pwmEntries s.cfg (dutyWrites s.cfg ds) oks)) {ch : Nat} {d : Byte} (hx : (ch, d) ∈ ds) :
    u.duty ch = some d := by
  have hall : oks.all id = true := by
    rw [← Bool.not_eq_false, ← pwmEntries_failed s.cfg (dutyWrites s.cfg ds) oks (by simp [hlen])]
    exact hok.no_failure
  obtain ⟨k, hk⟩ := List.mem_iff_getElem?.mp hx
  obtain ⟨hlt, -⟩ := List.getElem?_eq_some_iff.mp hk
  have hw : (dutyWrites s.cfg ds)[k]? = some (dutyReg s.cfg ch, d) := by
    rw [dutyWrites, List.getElem?_map, hk]
    rfl
  have hokk : oks[k]? = some true := by
    rw [List.getElem?_eq_getElem (hlen ▸ hlt)]
    exact congrArg some (List.all_eq_true.mp hall _ (List.getElem_mem _))
  have hread := hi.read_written (dutyWrites_nodup hwf hch hnd) hw
  rwa [if_pos hokk, ← hi.cfg] at hread

/-- What a step in a sequence leaves, whatever the bus does: eight transactions in the advanced state and a response;
where a dark frame was written without a failure, every duty is 0. -/
theorem exec_animStep_issued {s : State} {frames : List Frame} {frame : Frame} (hf : runningFrames s = some frames)
    (hk : frames[s.seqIdx.toNat]? = some frame) :
    ∃ l u st v, exec .animStep s = .next (respond st v u) ∧ Issued (s.advance frames.length) l u ∧ l.length = 8 ∧
      (s.cfg.wf = true → frame.levels = List.replicate 8 0 → AllOk l → ∀ ch < 8, u.duty ch = some 0) := by
  have hlevels := runningFrames_levels_length hf (List.mem_of_getElem? hk)
  obtain ⟨oks, hlen, hi, -⟩ := applyFrame_spec frame.levels (s.advance frames.length)
  refine ⟨_, _, _, _, exec_animStep_frame hf hk, hi, ?_, fun hwf hdark hok ch hch => ?_⟩
  · rw [pwmEntries_length, dutyWrites_length, hlen, frameDuties_length hlevels]
    rfl
  · have hx : (ch, 0) ∈ Config.allCh.zip (frame.levels.map percentToDuty) := by
      rw [hdark]
      exact (by decide : ∀ c < 8, (c, 0) ∈ Config.allCh.zip ((List.replicate 8 0).map percentToDuty)) ch hch
    exact hi.duty_of_allOk (advance_wf hwf) (fun x => frameChannels_lt)
      (by rw [frameDuties_fst hlevels]; decide) hlen hok hx

/-! ## The transition table (R184) -/

/-- Outside the table an operation leaves the animation machine where it is: the written-by column of R31. -/
theorem exec_keeps_sequence {i : Instr} {s t : State} (h : exec i s = .next t)
    (hi : ¬(i = .animBoot ∨ i = .animBren ∨ i = .animStop ∨ i = .animBlink ∨ i = .animStep)) :
    t.animState = s.animState ∧ t.seqIdx = s.seqIdx := by
  obtain ⟨-, -, -, -, hanim, hseq, -⟩ := onlyNamedOperationsWriteState i s t h
  exact ⟨not_not.mp (mt hanim hi), not_not.mp (mt hseq hi)⟩

/-- The column of ANIM.STEP. -/
theorem animStep_animState {s t : State} (h : exec .animStep s = .next t) : t.animState =
    if (s.animState = .bootSequence ∧ s.seqIdx.toNat + 1 = s.cfg.bootFrameCount) ∨
      (s.animState = .confirmationBlink ∧ s.seqIdx.toNat + 1 = s.cfg.blinkFrameCount) then .idle
    else s.animState := by
  simp only [atLastFrame_iff]
  cases hf : runningFrames s with
  | none =>
    rw [exec, execAnimStep_none hf] at h
    cases h
    simp
  | some frames =>
    obtain ⟨frame, hk⟩ := frame_of_exec_animStep hf h
    obtain ⟨l, u, st, v, hexec, hi, -⟩ := exec_animStep_issued hf hk
    rw [hexec] at h
    cases h
    rw [respond_animState, hi.animState, advance_animState]
    simp

/-- Settles O53: ANIM.STEP by `animStep_animState`, the four transitions by their definition, and the other operations
by the written-by column. -/
theorem transitionTable : Obligations.TransitionTable := by
  refine ⟨fun i s t h => ⟨?_, fun h1 h2 h3 h4 h5 => (exec_keeps_sequence h (by simp [*])).2⟩, fun i s hi => ?_⟩
  · cases i with
    | animBoot | animBren | animStop | animBlink => cases h; rfl
    | animStep => exact animStep_animState h
    | _ => exact (exec_keeps_sequence h (by simp)).1
  · rcases hi with rfl | rfl | rfl | rfl <;> exact ⟨_, rfl, rfl, rfl, rfl⟩

/-! ## A whole sequence (R195) -/

section
variable {s : State} {frames : List Frame}

theorem runningFrames_congr {t : State} (hc : t.cfg = s.cfg) (ha : t.animState = s.animState) :
    runningFrames t = runningFrames s := by
  rw [runningFrames, runningFrames, hc, ha]

/-- Before its end a sequence has performed a frame a step. -/
theorem repeatOp_animStep (hwf : s.cfg.wf = true) (hf : runningFrames s = some frames) (h0 : s.seqIdx = 0) {k : Nat}
    (hk : k < frames.length) : ∃ t, repeatOp .animStep k s = .next t ∧ t.cfg = s.cfg ∧
      t.animState = s.animState ∧ t.seqIdx.toNat = k := by
  induction k with
  | zero => exact ⟨s, rfl, rfl, rfl, by rw [h0]; rfl⟩
  | succ k ih =>
    obtain ⟨u, hu, hucfg, huanim, huidx⟩ := ih (by omega)
    have huf := (runningFrames_congr hucfg huanim).trans hf
    obtain ⟨frame, hframe⟩ : ∃ frame, frames[u.seqIdx.toNat]? = some frame :=
      ⟨_, List.getElem?_eq_getElem (by omega)⟩
    obtain ⟨l, t, st, v, ht, hi, -⟩ := exec_animStep_issued huf hframe
    rw [advance_more (by omega)] at hi
    have hidx : t.seqIdx = u.seqIdx + 1 := hi.seqIdx
    refine ⟨_, (repeatOp_succ hu).trans ht, hi.cfg.trans hucfg, hi.animState.trans huanim, ?_⟩
    rw [respond_seqIdx, hidx, BitVec.toNat_add, huidx]
    exact Nat.mod_eq_of_lt (hk.trans (runningFrames_length_lt hwf hf))

end

/-- ANIM.BOOT and ANIM.BLINK start the sequence whose frames are counted in 00_scope.md R10. -/
theorem exec_start {s : State} {start : Instr} {a : AnimState} {n : Nat}
    (h : (start = .animBoot ∧ a = .bootSequence ∧ n = s.cfg.bootFrameCount) ∨
      (start = .animBlink ∧ a = .confirmationBlink ∧ n = s.cfg.blinkFrameCount)) :
    exec start s = .next (respond .ok 0 (enterState a s)) ∧
      ∃ frames, runningFrames (respond .ok 0 (enterState a s)) = some frames ∧ frames.length = n := by
  rcases h with ⟨rfl, rfl, rfl⟩ | ⟨rfl, rfl, rfl⟩
  · exact ⟨rfl, _, rfl, bootFrames_length _⟩
  · exact ⟨rfl, _, rfl, blinkFrames_length _⟩

/-- Settles O60: `repeatOp_animStep` up to the last frame, and one step more. -/
theorem sequenceEndsAfterItsFrames : Obligations.SequenceEndsAfterItsFrames := by
  intro s start a n hwf hstart
  obtain ⟨hexec, frames, hf, rfl⟩ := exec_start hstart
  have hrun := fun k => repeatOp_animStep (s := respond .ok 0 (enterState a s)) (k := k) hwf hf rfl
  refine ⟨_, hexec, fun k hk => ?_, ?_⟩
  · obtain ⟨t, ht, -, hanim, hidx⟩ := hrun k hk
    exact ⟨t, ht, hanim, hidx⟩
  · have hlast := runningFrames_getLast?_levels hf
    obtain ⟨frame, hframe, hdark⟩ := Option.map_eq_some_iff.mp hlast
    rw [List.getLast?_eq_getElem?] at hframe
    obtain ⟨hlt, -⟩ := List.getElem?_eq_some_iff.mp hframe
    obtain ⟨u, hu, hucfg, huanim, huidx⟩ := hrun _ hlt
    obtain ⟨l, t, st, v, ht, hi, hlen, hduty⟩ :=
      exec_animStep_issued ((runningFrames_congr hucfg huanim).trans hf) (huidx ▸ hframe)
    rw [advance_last (by omega)] at hi
    refine ⟨u, respond st v t, l, hu, ht, ?_, hi.animState, hi.seqIdx, hi.history, hlen, hduty (hucfg ▸ hwf) hdark⟩
    rw [← ht, ← repeatOp_succ hu, Nat.sub_add_cancel (by omega)]

end Sys2Proof.Machine

/-! SUPPORT. How every operation ends (60_exceptions.md R221): refused at once, or after its transactions with the
status they call for. From the one list of endings follow that every word is answered (O12), the table of statuses (O20) and
that a refusal changes nothing (O21). -/

namespace Sys2Proof.Machine

/-! ## A run of transactions and its answer -/

/-- `t` is `s` after at most `n` transactions and one response: OK if they all succeeded, BusError if one failed. -/
inductive BusRun (n : Nat) (s : State) : State → Prop where
  | completed {l : List Transaction} {u : State} {v : Word} (hi : Issued s l u) (hlen : l.length ≤ n) (hok : AllOk l) :
      BusRun n s (respond .ok v u)
  | failed {l : List Transaction} {u : State} {v : Word} (hi : Issued s l u) (hlen : l.length ≤ n)
      (hfail : ∃ x ∈ l, x.ok = false) : BusRun n s (respond .busError v u)

section
variable {s u t : State}

/-- Without a transaction. -/
theorem busRun_respond (v : Word) (s : State) : BusRun 0 s (respond .ok v s) :=
  .completed (Issued.refl s) (Nat.zero_le _) AllOk.nil

theorem BusRun.mono {n n' : Nat} (h : BusRun n s t) (hn : n ≤ n') : BusRun n' s t := by
  cases h with
  | completed hi hlen hok => exact .completed hi (hlen.trans hn) hok
  | failed hi hlen hfail => exact .failed hi (hlen.trans hn) hfail

/-- One transaction, and after a success the rest of the operation. -/
theorem onBus_busRun {n : Nat} {q : BusRequest} {next : List Byte → State → State}
    (hnext : ∀ bytes u, BusRun n u (next bytes u)) : BusRun (n + 1) s (onBus q s next) := by
  rcases onBus_cases q s next with ⟨-, hi, he⟩ | ⟨bytes, -, hi, he⟩
  · rw [he]
    exact .failed hi (Nat.le_add_left ..) ⟨_, List.mem_singleton_self _, historyEntry_ok q none⟩
  · have hfirst : AllOk [historyEntry q (some bytes)] := AllOk.single (historyEntry_ok q (some bytes))
    have hrest := hnext bytes (transact q s).2
    rw [he]
    generalize next bytes (transact q s).2 = t at hrest
    cases hrest with
    | completed hi' hlen hok => exact .completed (hi.trans hi') (Nat.succ_le_succ hlen) (hfirst.append hok)
    | failed hi' hlen hfail =>
      obtain ⟨x, hx, hxf⟩ := hfail
      exact .failed (hi.trans hi') (Nat.succ_le_succ hlen) ⟨x, List.mem_append_right _ hx, hxf⟩

/-- Writes to the PWM controller whose answers were `oks`, whether the first failure ended them or none did. -/
theorem pwmEntries_busRun {ws : List (Byte × Byte)} {oks : List Bool} (hi : Issued s (pwmEntries s.cfg ws oks) u)
    (hlen : oks.length ≤ ws.length) (v : Word) :
    BusRun ws.length s (respond (if oks.all id then .ok else .busError) v u) := by
  have hle : (pwmEntries s.cfg ws oks).length ≤ ws.length := by rw [pwmEntries_length]; exact Nat.min_le_left ..
  have hfailed := pwmEntries_failed s.cfg ws oks hlen
  cases hall : oks.all id with
  | false => exact .failed hi hle (hfailed.mpr hall)
  | true =>
    refine .completed hi hle fun x hx => Bool.eq_true_of_not_eq_false fun hxf => ?_
    exact Bool.false_ne_true ((hfailed.mp ⟨x, hx, hxf⟩).symm.trans hall)

/-- The bring-up (41_pwm_driver.md R142). -/
theorem writeSteps_busRun (ws : List (Byte × Byte)) (s : State) :
    BusRun ws.length s (writeSteps ws s fun u => respond .ok 0 u) := by
  rcases writeSteps_cases ws s with ⟨u, hi, he⟩ | ⟨k, u, hk, hi, he⟩
  · rw [he]
    simpa using pwmEntries_busRun hi (by simp) 0
  · rw [he]
    simpa using pwmEntries_busRun hi (by simpa using hk) 0

/-- A best-effort run of channel writes (41_pwm_driver.md R141). -/
theorem writeChannels_busRun {ds : List (Nat × Byte)} (hch : ∀ x ∈ ds, x.1 < 8) (v : Word) (s : State) :
    BusRun ds.length s (respond (writeChannels ds s).status v (writeChannels ds s).state) := by
  obtain ⟨oks, hlen, hi, hst, -⟩ := writeChannels_spec ds s hch
  rw [hst, ← dutyWrites_length s.cfg ds]
  exact pwmEntries_busRun hi (by rw [hlen, dutyWrites_length]) v

end

/-- "GROUP_SIZE is 3 or 4" (00_scope.md R10), so both groups together have at most eight members. -/
theorem groups_length_le {p : Params} (hwf : p.wf = true) : p.amberCh.length + p.whiteCh.length ≤ 8 := by
  obtain ⟨hsizes, -⟩ := p.wf_iff.mp hwf
  obtain ⟨hsize, hamber, hwhite⟩ := p.groupSizesOk_iff.mp hsizes
  omega

/-- PROM_READ_COUNT is 7 or 8 (00_scope.md R9), so a read is longer than any other operation's transactions. -/
theorem promReads_bounds {p : Params} (hwf : p.wf = true) : 14 ≤ 2 * p.promReadCount ∧ 2 * p.promReadCount ≤ 16 := by
  obtain ⟨-, -, -, -, -, -, -, -, hcount, -⟩ := p.wf_iff.mp hwf
  have h78 := p.promCountOk_iff.mp hcount
  omega

/-- `apply` with mireds other than 0, in Idle and outside it (42_mixing.md R162). -/
theorem applyAndRespond_busRun {u : State} {m : Half} (b : Byte) (hwf : u.cfg.wf = true) (hm : m ≠ 0) :
    ∃ n ≤ 8, BusRun n u (applyAndRespond b m u) := by
  by_cases hs : u.animState = .idle
  · obtain ⟨hch, -⟩ := mixDuties_channels hwf b.toNat m.toNat
    refine ⟨_, (mixDuties_length u.cfg b.toNat m.toNat).trans_le (groups_length_le hwf), ?_⟩
    rw [applyAndRespond, applyMix_idle b hm hs]
    exact writeChannels_busRun hch _ u
  · refine ⟨0, Nat.zero_le _, ?_⟩
    rw [applyAndRespond, applyMix_gated b hm hs]
    exact busRun_respond _ u

/-! ## The endings -/

/-- The operands are in range and the coefficients the operation needs are there. -/
structure Accepted (s : State) (i : Instr) : Prop where
  inRange : ¬BadOperand i
  calibrated : ¬Uncalibrated s i

theorem BadOperand.not_uncalibrated {i : Instr} {s : State} (h : BadOperand i) : ¬Uncalibrated s i := by
  intro hu
  cases hu with
  | rdreg r hlo hhi =>
    cases h with
    | rdregGap | rdregHigh => omega
  | ptCalvfy | ptTemp => cases h

/-- The ways the operation `i` in `s` can end: with `(st, v)` in the state `t`, having issued the transactions `l`. -/
inductive Ending (i : Instr) (s : State) : List Transaction → Status → Word → State → Prop where
  | badOperand (h : BadOperand i) : Ending i s [] .invalidArgument 0 (respond .invalidArgument 0 s)
  | uncalibrated (h : Uncalibrated s i) : Ending i s [] .calibrationError 0 (respond .calibrationError 0 s)
  | completed {w u : State} {l : List Transaction} {v : Word} (hacc : Accepted s i) (hne : i ≠ .ptInit)
      (hw : Writes i s w) (hi : Issued w l u) (hlen : l.length ≤ 2 * s.cfg.promReadCount) (hok : AllOk l) :
      Ending i s l .ok v (respond .ok v u)
  | failed {w u : State} {l : List Transaction} {v : Word} (hacc : Accepted s i) (hw : Writes i s w)
      (hi : Issued w l u) (hlen : l.length ≤ 2 * s.cfg.promReadCount) (hfail : ∃ x ∈ l, x.ok = false) :
      Ending i s l .busError v (respond .busError v u)
  | verified {u : State} {l : List Transaction} {st : Status} {v : Word} {c : Coeffs} (hinit : i = .ptInit)
      (hi : Issued { s with cal := some c, calValid := checksumOk c } l u)
      (hlen : l.length ≤ 2 * s.cfg.promReadCount) (hok : AllOk l)
      (hst : st = if checksumOk c then .ok else .calibrationError) : Ending i s l st v (respond st v u)

section
variable {i : Instr} {s t : State} {l : List Transaction} {st : Status} {v : Word}

theorem answeredWith_inj {st' : Status} {v' : Word} (h : answeredWith s st v = answeredWith s st' v') :
    st = st' ∧ v = v' := by
  simpa [answeredWith] using h

theorem Ending.history (h : Ending i s l st v t) : t.history = s.history ++ l := by
  cases h with
  | badOperand | uncalibrated => exact (List.append_nil _).symm
  | completed _ _ hw hi | failed _ hw hi => rw [respond_history, hi.history, hw.history]
  | verified _ hi => exact hi.history

theorem Ending.responses (h : Ending i s l st v t) : t.responses = answeredWith s st v := by
  cases h with
  | badOperand | uncalibrated => rfl
  | completed _ _ hw hi | failed _ hw hi =>
    rw [respond_responses, hi.responses, hi.requester, hw.responses, hw.requester, answeredWith]
  | verified _ hi => rw [respond_responses, hi.responses, hi.requester, answeredWith]

theorem Ending.length_le (h : Ending i s l st v t) : l.length ≤ 2 * s.cfg.promReadCount := by
  cases h with
  | badOperand | uncalibrated => exact Nat.zero_le _
  | completed _ _ _ _ hlen | failed _ _ _ hlen | verified _ _ hlen => exact hlen

/-! ### The status of each ending (R221) -/

theorem Ending.ne_storeError (h : Ending i s l st v t) : st ≠ .storeError := by
  cases h with
  | badOperand | uncalibrated | completed | failed => nofun
  | verified _ _ _ _ hst => rw [hst]; split <;> nofun

theorem Ending.invalidArgument_iff (h : Ending i s l st v t) : st = .invalidArgument ↔ BadOperand i := by
  cases h with
  | badOperand hb => exact iff_of_true rfl hb
  | uncalibrated hu => exact iff_of_false nofun fun hb => hb.not_uncalibrated hu
  | completed hacc | failed hacc => exact iff_of_false nofun hacc.inRange
  | verified hinit _ _ _ hst =>
    subst hinit hst
    exact iff_of_false (by split <;> nofun) nofun

theorem Ending.busError_iff (h : Ending i s l st v t) : st = .busError ↔ ∃ x ∈ l, x.ok = false := by
  cases h with
  | badOperand | uncalibrated => exact iff_of_false nofun AllOk.nil.no_failure
  | completed _ _ _ _ _ hok => exact iff_of_false nofun hok.no_failure
  | failed _ _ _ _ hfail => exact iff_of_true rfl hfail
  | verified _ _ _ hok hst => exact iff_of_false (by rw [hst]; split <;> nofun) hok.no_failure

/-- PT.INIT's own CalibrationError: the read succeeded, and the checksum of the coefficients it left differs. -/
def InitMismatch (i : Instr) (l : List Transaction) (t : State) : Prop :=
  i = .ptInit ∧ AllOk l ∧ ∃ c, t.cal = some c ∧ checksumOk c = false

theorem Ending.calibrationError_iff (h : Ending i s l st v t) :
    st = .calibrationError ↔ Uncalibrated s i ∨ InitMismatch i l t := by
  cases h with
  | badOperand hb =>
    refine iff_of_false nofun (not_or.mpr ⟨hb.not_uncalibrated, fun ⟨hinit, _⟩ => ?_⟩)
    subst hinit
    cases hb
  | uncalibrated hu => exact iff_of_true rfl (.inl hu)
  | completed hacc hne => exact iff_of_false nofun (not_or.mpr ⟨hacc.calibrated, fun ⟨hinit, _⟩ => hne hinit⟩)
  | failed hacc _ _ _ hfail =>
    exact iff_of_false nofun (not_or.mpr ⟨hacc.calibrated, fun ⟨_, hok, _⟩ => hok.no_failure hfail⟩)
  | @verified u _ _ _ c hinit hi _ hok hst =>
    have hcal : u.cal = some c := hi.cal
    subst hinit hst
    have hmatch : InitMismatch .ptInit l (respond (if checksumOk c then .ok else .calibrationError) v u) ↔
        checksumOk c = false := by
      simp [InitMismatch, hok, hcal]
    have hun : ¬Uncalibrated s .ptInit := nofun
    rw [hmatch]
    cases checksumOk c <;> simp [hun]

/-- Before any bus access an operation answers 0 and has written nothing (R223 (a), R230). -/
theorem Ending.refusal_frame (h : Ending i s l st v t)
    (hst : st = .invalidArgument ∨ (st = .calibrationError ∧ i ≠ .ptInit)) :
    v = 0 ∧ t = { s with responses := answeredWith s st 0 } := by
  cases h with
  | badOperand | uncalibrated => exact ⟨rfl, rfl⟩
  | completed | failed => rcases hst with hst | ⟨hst, -⟩ <;> cases hst
  | verified hinit _ _ _ hif =>
    rcases hst with hst | ⟨-, hne⟩
    · rw [hif] at hst
      split at hst <;> cases hst
    · exact absurd hinit hne

end

/-! ## Every operation has an ending -/

/-- The outcome of the operation `i` in `s` is a next state, by one of the endings. -/
def Ends (i : Instr) (s : State) (o : Host.Outcome State Fault Refusal) : Prop :=
  ∃ t l st v, o = .next t ∧ Ending i s l st v t

section
variable {i : Instr} {s w t : State}

theorem ends_badOperand (h : BadOperand i) : Ends i s (.next (respond .invalidArgument 0 s)) :=
  ⟨_, _, _, _, rfl, .badOperand h⟩

theorem ends_uncalibrated (h : Uncalibrated s i) : Ends i s (.next (respond .calibrationError 0 s)) :=
  ⟨_, _, _, _, rfl, .uncalibrated h⟩

/-- An accepted operation other than PT.INIT that writes first and then runs on the bus. -/
theorem BusRun.ends {n : Nat} (hrun : BusRun n w t) (hwf : s.cfg.wf = true) (hn : n ≤ 14) (hw : Writes i s w)
    (hacc : Accepted s i) (hne : i ≠ .ptInit) : Ends i s (.next t) := by
  have hmax : n ≤ 2 * s.cfg.promReadCount := hn.trans (promReads_bounds hwf).1
  cases hrun with
  | completed hi hlen hok => exact ⟨_, _, _, _, rfl, .completed hacc hne hw hi (hlen.trans hmax) hok⟩
  | failed hi hlen hfail => exact ⟨_, _, _, _, rfl, .failed hacc hw hi (hlen.trans hmax) hfail⟩

/-- An accepted operation without bus access. -/
theorem ends_quiet {v : Word} (hwf : s.cfg.wf = true) (hw : Writes i s w) (hacc : Accepted s i) (hne : i ≠ .ptInit) :
    Ends i s (.next (respond .ok v w)) :=
  (busRun_respond v w).ends hwf (Nat.zero_le _) hw hacc hne

end

section
variable {s : State}

/-- Everything the PROM read can do on the bus: unlike `readCalibration_cases`, with what the transactions gave. -/
theorem readCalibration_runs (s : State) :
    (∃ l u, Issued s l u ∧ l.length ≤ 2 * s.cfg.promReadCount ∧ (∃ x ∈ l, x.ok = false) ∧
      ∀ next, readCalibration s next = respond .busError 0 u) ∨
    ∃ l u c, Issued s l u ∧ l.length ≤ 2 * s.cfg.promReadCount ∧ AllOk l ∧
      ∀ next, readCalibration s next = next c { u with cal := some c, calValid := false } := by
  rcases promWords_cases s.cfg.promReadCount 0 s with
    ⟨l, u, hi, hstop, hlen, -, he⟩ | ⟨l, u, ws, hi, hok, hlen, -, -, he⟩
  · exact .inl ⟨l, u, hi, hlen, hstop.has_failure, fun _ => he _⟩
  · exact .inr ⟨l, u, Coeffs.ofWords ws, hi, hlen.le, hok, fun _ => he _⟩

/-- The five state registers are always read (10_state.md R31). -/
theorem readRegister_of_le_four {r : Byte} (s : State) (h : r.toNat ≤ 4) : ∃ v, readRegister r s = (.ok, v) := by
  obtain rfl | rfl | rfl | rfl | rfl : r = 0 ∨ r = 1 ∨ r = 2 ∨ r = 3 ∨ r = 4 := by bv_omega
  all_goals exact ⟨_, rfl⟩

theorem exec_rdreg_ends (r : Byte) (hwf : s.cfg.wf = true) : Ends (.rdreg r) s (exec (.rdreg r) s) := by
  have hgap (h : ¬(5 ≤ r.toNat ∧ r.toNat ≤ 7)) (h' : ¬16 ≤ r.toNat) : ¬BadOperand (.rdreg r) := by
    rintro (⟨_, hlo, hhi⟩ | ⟨_, hhigh⟩) <;> omega
  by_cases hlow : r.toNat ≤ 4
  · obtain ⟨v, hv⟩ := readRegister_of_le_four s hlow
    rw [exec_rdreg hv]
    refine ends_quiet hwf (.nothing nofun) ⟨hgap (by omega) (by omega), ?_⟩ nofun
    rintro ⟨_, hlo, _⟩
    omega
  · have hread := readRegister_of_five_le s (show 5 ≤ r.toNat by omega)
    by_cases hslot : 8 ≤ r.toNat ∧ r.toNat ≤ 15
    · rw [if_pos hslot] at hread
      cases hcal : s.cal with
      | none =>
        rw [hcal] at hread
        rw [exec_rdreg hread]
        exact ends_uncalibrated (.rdreg r hslot.1 hslot.2 (by rw [State.calLoaded, hcal]; rfl))
      | some c =>
        rw [hcal] at hread
        rw [exec_rdreg hread]
        refine ends_quiet hwf (.nothing nofun) ⟨hgap (by omega) (by omega), ?_⟩ nofun
        rintro ⟨_, _, _, hl⟩
        simp [State.calLoaded, hcal] at hl
    · rw [if_neg hslot] at hread
      rw [exec_rdreg hread]
      by_cases h7 : r.toNat ≤ 7
      · exact ends_badOperand (.rdregGap r (by omega) h7)
      · exact ends_badOperand (.rdregHigh r (by omega))

theorem execPtCalrd_ends (s : State) : Ends .ptCalrd s (execPtCalrd s) := by
  unfold execPtCalrd
  rcases readCalibration_runs s with ⟨l, u, hi, hlen, hfail, he⟩ | ⟨l, u, c, hi, hlen, hok, he⟩
  · rw [he]
    exact ⟨_, _, _, _, rfl, .failed ⟨nofun, nofun⟩ (.nothing nofun) hi hlen hfail⟩
  · rw [he]
    exact ⟨_, _, _, _, rfl, .completed ⟨nofun, nofun⟩ nofun (.ptCalrd c) (hi.with_cal ..) hlen hok⟩

theorem execPtCalvfy_ends (hwf : s.cfg.wf = true) : Ends .ptCalvfy s (execPtCalvfy s) := by
  cases hcal : s.cal with
  | none =>
    rw [execPtCalvfy_unloaded hcal]
    exact ends_uncalibrated (.ptCalvfy (by rw [State.calLoaded, hcal]; rfl))
  | some c =>
    rw [execPtCalvfy_loaded hcal]
    refine ends_quiet hwf (.ptCalvfy hcal) ⟨nofun, fun | .ptCalvfy hl => ?_⟩ nofun
    simp [State.calLoaded, hcal] at hl

/-- The two branches of PT.INIT's comparison as one answer (40_calibration_conversion.md R110). -/
theorem verifiedAnswer_eq (c : Coeffs) (u : State) :
    (if checksumOk c then respond .ok 1 { u with cal := some c, calValid := true }
      else respond .calibrationError 0 { u with cal := some c, calValid := false }) =
    respond (if checksumOk c then .ok else .calibrationError) (if checksumOk c then 1 else 0)
      { u with cal := some c, calValid := checksumOk c } := by
  cases checksumOk c <;> rfl

theorem execPtInit_ends (s : State) : Ends .ptInit s (execPtInit s) := by
  unfold execPtInit
  rcases readCalibration_runs s with ⟨l, u, hi, hlen, hfail, he⟩ | ⟨l, u, c, hi, hlen, hok, he⟩
  · rw [he]
    exact ⟨_, _, _, _, rfl, .failed ⟨nofun, nofun⟩ (.nothing nofun) hi hlen hfail⟩
  · rw [he]
    exact ⟨_, _, _, _, congrArg Host.Outcome.next (verifiedAnswer_eq c u),
      .verified rfl (hi.with_cal ..) hlen hok rfl⟩

/-- Under R22 PT.TEMP is refused exactly when CAL_VALID is 0. -/
theorem execPtTemp_ends (hwf : s.cfg.wf = true) (hcal : s.calValid = true → s.calLoaded = true) :
    Ends .ptTemp s (execPtTemp s) := by
  cases hv : s.calValid with
  | false =>
    rw [execPtTemp_unverified (.inl hv)]
    exact ends_uncalibrated (.ptTemp hv)
  | true =>
    obtain ⟨c, hc⟩ := Option.isSome_iff_exists.mp (hcal hv)
    have hacc : Accepted s .ptTemp := ⟨nofun, fun | .ptTemp hf => Bool.false_ne_true (hf.symm.trans hv)⟩
    rw [execPtTemp_verified hv hc]
    exact (onBus_busRun fun _ _ => onBus_busRun fun _ _ => busRun_respond _ _).ends hwf (by decide)
      (.nothing nofun) hacc nofun

theorem execRhRead_ends (hwf : s.cfg.wf = true) : Ends .rhRead s (execRhRead s) :=
  (onBus_busRun fun _ _ => onBus_busRun fun _ _ => busRun_respond _ _).ends hwf (by decide) (.nothing nofun)
    ⟨nofun, nofun⟩ nofun

theorem execSlInit_ends (hwf : s.cfg.wf = true) : Ends .slInit s (execSlInit s) := by
  refine BusRun.ends (n := 2) (onBus_busRun fun bytes u => ?_) hwf (by decide) (.nothing nofun) ⟨nofun, nofun⟩ nofun
  split
  · exact onBus_busRun fun _ _ => busRun_respond _ _
  · exact (busRun_respond _ _).mono (Nat.zero_le _)

theorem execSlTemp_ends (hwf : s.cfg.wf = true) : Ends .slTemp s (execSlTemp s) :=
  (onBus_busRun fun _ _ => busRun_respond _ _).ends hwf (by decide) (.nothing nofun) ⟨nofun, nofun⟩ nofun

/-! ### The driver -/

theorem exec_pwmInit_ends (hwf : s.cfg.wf = true) : Ends .pwmInit s (exec .pwmInit s) := by
  rw [exec_pwmInit]
  exact (writeSteps_busRun (bringUp s.cfg) { s with pwmEn := true }).ends hwf (by simp [bringUp]) .pwmInit
    ⟨nofun, nofun⟩ nofun

theorem exec_pwmSetch_ends (a d : Byte) (hwf : s.cfg.wf = true) :
    Ends (.pwmSetch a d) s (exec (.pwmSetch a d) s) := by
  by_cases ha : 7 < a.toNat
  · rw [exec, execPwmSetch, setChannel_out _ d s ha]
    exact ends_badOperand (.channel a d ha)
  · have hacc : Accepted s (.pwmSetch a d) := ⟨fun | .channel _ _ h => ha h, nofun⟩
    rw [exec_pwmSetch]
    exact (writeChannels_busRun (List.forall_mem_singleton.mpr (by omega)) 0 s).ends hwf (by simp)
      (.nothing nofun) hacc nofun

/-- Selectors up to 2 name a group (41_pwm_driver.md R148). -/
theorem groupOf_isSome {p : Params} {a : Byte} (ha : a.toNat ≤ 2) : ∃ chs, groupOf p a = some chs := by
  obtain rfl | rfl | rfl : a = 0 ∨ a = 1 ∨ a = 2 := by bv_omega
  all_goals exact ⟨_, rfl⟩

theorem exec_pwmSetgrp_ends (a d : Byte) (hwf : s.cfg.wf = true) :
    Ends (.pwmSetgrp a d) s (exec (.pwmSetgrp a d) s) := by
  by_cases ha : 2 < a.toNat
  · rw [exec, execPwmSetgrp, groupOf_eq_none ha]
    exact ends_badOperand (.selector a d ha)
  · have hacc : Accepted s (.pwmSetgrp a d) := ⟨fun | .selector _ _ h => ha h, nofun⟩
    obtain ⟨chs, hgroup⟩ := groupOf_isSome (p := s.cfg) (show a.toNat ≤ 2 by omega)
    obtain ⟨hnodup, hlt⟩ := group_channels hwf hgroup
    have hlen : chs.length ≤ (List.range 8).length :=
      (hnodup.subperm fun ch hch => List.mem_range.mpr (hlt ch hch)).length_le
    rw [exec_pwmSetgrp d hgroup]
    refine (writeChannels_busRun (List.forall_mem_map.mpr hlt) _ s).ends hwf ?_ (.nothing nofun) hacc nofun
    rw [List.length_map]
    exact hlen.trans (by decide)

theorem exec_pwmPct2duty_ends (p : Byte) (hwf : s.cfg.wf = true) :
    Ends (.pwmPct2duty p) s (exec (.pwmPct2duty p) s) := by
  rw [exec, execPwmPct2duty]
  split
  · next hp => exact ends_badOperand (.percent p hp)
  · next hp => exact ends_quiet hwf (.nothing nofun) ⟨fun | .percent _ h => hp h, nofun⟩ nofun

/-! ### The lamp and the mixer -/

theorem exec_lampLoad_ends (b : Byte) (m : Half) (hwf : s.cfg.wf = true) :
    Ends (.lampLoad b m) s (exec (.lampLoad b m) s) := by
  by_cases hm : m = 0
  · subst hm
    rw [exec_lampLoad_zero]
    exact ends_badOperand (.loadZero b)
  · rw [exec_lampLoad s b hm]
    exact ends_quiet hwf (.lampLoad hm) ⟨fun | .loadZero _ => hm rfl, nofun⟩ nofun

theorem MixOp.writes {i : Instr} {b : Byte} {m : Half} {u : State} (h : MixOp s i b m u) (hm : m ≠ 0) :
    Writes i s u := by
  cases h with
  | mixApply | mixRecall => exact .nothing nofun
  | lampSetb => exact .lampSetb
  | lampSetct => exact .lampSetct hm

theorem MixOp.accepted {i : Instr} {b : Byte} {m : Half} {u : State} (h : MixOp s i b m u) (hm : m ≠ 0) :
    Accepted s i ∧ i ≠ .ptInit := by
  cases h with
  | mixApply b => exact ⟨⟨fun | .applyZero _ => hm rfl, nofun⟩, nofun⟩
  | lampSetct => exact ⟨⟨fun | .setctZero => hm rfl, nofun⟩, nofun⟩
  | mixRecall | lampSetb => exact ⟨⟨nofun, nofun⟩, nofun⟩

/-- The four mixer operations, when they reach `apply` with mireds other than 0. -/
theorem MixOp.ends {i : Instr} {b : Byte} {m : Half} {u : State} (h : MixOp s i b m u) (hwf : s.cfg.wf = true)
    (hm : m ≠ 0) : Ends i s (exec i s) := by
  obtain ⟨n, hn, hrun⟩ := applyAndRespond_busRun (u := u) b (h.cfg.symm ▸ hwf) hm
  obtain ⟨hacc, hne⟩ := h.accepted hm
  rw [h.exec_eq hm]
  exact hrun.ends hwf (hn.trans (by decide)) (h.writes hm) hacc hne

theorem exec_lampSetct_ends (m : Half) (hwf : s.cfg.wf = true) : Ends (.lampSetct m) s (exec (.lampSetct m) s) := by
  by_cases hm : m = 0
  · subst hm
    rw [exec_lampSetct_zero]
    exact ends_badOperand .setctZero
  · exact (MixOp.lampSetct m).ends hwf hm

theorem exec_mixApply_ends (b : Byte) (m : Half) (hwf : s.cfg.wf = true) :
    Ends (.mixApply b m) s (exec (.mixApply b m) s) := by
  by_cases hm : m = 0
  · subst hm
    rw [exec_mixApply_zero]
    exact ends_badOperand (.applyZero b)
  · exact (MixOp.mixApply b m).ends hwf hm

/-! ### The animation -/

theorem exec_animTick_ends (hwf : s.cfg.wf = true) : Ends .animTick s (exec .animTick s) := by
  by_cases hs : s.animState = .breathing
  · rw [exec_animTick_breathing hs, setGroup_eq]
    exact (writeChannels_busRun (List.forall_mem_map.mpr fun _ => allCh_lt) _ { s with phase := s.phase + s.freq }).ends
      hwf (by simp [Config.allCh]) .animTick ⟨nofun, nofun⟩ nofun
  · rw [exec_animTick_other hs]
    exact ends_quiet hwf (.nothing nofun) ⟨nofun, nofun⟩ nofun

/-- A frame leaves the sequence at its next place. -/
theorem writes_advance {frames : List Frame} (hf : runningFrames s = some frames)
    (hlt : s.seqIdx.toNat < frames.length) : Writes .animStep s (s.advance frames.length) := by
  by_cases hl : s.seqIdx.toNat + 1 = frames.length
  · rw [advance_last hl]
    exact .lastFrame
  · rw [advance_more hl]
    exact .nextFrame hf (by omega)

/-- R28 keeps ANIM.STEP from its fault (log 12). -/
theorem exec_animStep_ends (hwf : s.cfg.wf = true) (hseq : seqInRange s = true) :
    Ends .animStep s (exec .animStep s) := by
  cases hf : runningFrames s with
  | none =>
    rw [exec, execAnimStep_none hf]
    exact ends_quiet hwf (.nothing nofun) ⟨nofun, nofun⟩ nofun
  | some frames =>
    have hlt := seqInRange_running hseq hf
    have hk := List.getElem?_eq_getElem hlt
    have hlevels := runningFrames_levels_length hf (List.mem_of_getElem? hk)
    rw [exec_animStep_frame hf hk, applyFrame]
    exact (writeChannels_busRun (fun _ => frameChannels_lt) _ _).ends hwf
      (by rw [frameDuties_length hlevels]; decide) (writes_advance hf hlt) ⟨nofun, nofun⟩ nofun

end

/-- Under the invariants no operation faults, and each has one of the endings. -/
theorem exec_ends (i : Instr) {s : State} (hs : Inv s) : Ends i s (exec i s) := by
  obtain ⟨hwf, hcal, hmireds, hseq, -⟩ := hs
  cases i with
  | nop => exact ends_quiet hwf (.nothing nofun) ⟨nofun, nofun⟩ nofun
  | rdreg r => exact exec_rdreg_ends r hwf
  | ptCalrd => exact execPtCalrd_ends s
  | ptCalvfy => exact execPtCalvfy_ends hwf
  | ptInit => exact execPtInit_ends s
  | ptTemp => exact execPtTemp_ends hwf hcal
  | rhRead => exact execRhRead_ends hwf
  | slInit => exact execSlInit_ends hwf
  | slTemp => exact execSlTemp_ends hwf
  | pwmInit => exact exec_pwmInit_ends hwf
  | pwmSetch a d => exact exec_pwmSetch_ends a d hwf
  | pwmSetgrp a d => exact exec_pwmSetgrp_ends a d hwf
  | pwmPct2duty p => exact exec_pwmPct2duty_ends p hwf
  | lampLoad b m => exact exec_lampLoad_ends b m hwf
  | lampSetb b => exact (MixOp.lampSetb b).ends hwf hmireds
  | lampSetct m => exact exec_lampSetct_ends m hwf
  | mixApply b m => exact exec_mixApply_ends b m hwf
  | mixRecall => exact MixOp.mixRecall.ends hwf hmireds
  | animBoot => exact ends_quiet hwf .animBoot ⟨nofun, nofun⟩ nofun
  | animBrinit f => exact ends_quiet hwf .animBrinit ⟨nofun, nofun⟩ nofun
  | animBren => exact ends_quiet hwf .animBren ⟨nofun, nofun⟩ nofun
  | animStop => exact ends_quiet hwf .animStop ⟨nofun, nofun⟩ nofun
  | animBlink => exact ends_quiet hwf .animBlink ⟨nofun, nofun⟩ nofun
  | animTick => exact exec_animTick_ends hwf
  | animStep => exact exec_animStep_ends hwf hseq

/-- The ending of an operation that answered `(st, v)`. -/
theorem ending_of_exec {i : Instr} {s t : State} {st : Status} {v : Word} (hs : Inv s) (h : exec i s = .next t)
    (hr : t.responses = answeredWith s st v) : ∃ l, Ending i s l st v t := by
  obtain ⟨t', l, st', v', ht', hend⟩ := exec_ends i hs
  obtain rfl : t' = t := Host.Outcome.next.inj (ht'.symm.trans h)
  obtain ⟨rfl, rfl⟩ := answeredWith_inj (hend.responses.symm.trans hr)
  exact ⟨l, hend⟩

/-! ## Every word is answered (R225) -/

/-- A legal word is performed for the source that sent it (R227, 20_memory.md R67). -/
theorem step_of_decoded {s : State} {src : Source} {w : Word} {rest : List Input} {i : Instr} (hwf : s.cfg.wf = true)
    (hin : s.input = .event src w :: rest) (hd : decode w = .ok i) : step s = exec i (accept src rest s) := by
  simp [step, hwf, hin, hd]

/-- Settles O12: a legal word's operation has an ending, whose transactions and response are the step's, and an illegal
word is only answered. -/
theorem everyWordIsAnswered : Obligations.EveryWordIsAnswered := by
  intro s src w rest hs hin
  have hwf := hs.left
  have hmax := (promReads_bounds hwf).2
  have hs' : Inv (accept src rest s) := hs
  by_cases hd : ∃ i, decode w = .ok i
  · obtain ⟨i, hd⟩ := hd
    obtain ⟨t, l, st, v, he, hend⟩ := exec_ends i hs'
    have hstep := (step_of_decoded hwf hin hd).trans he
    obtain ⟨-, hinput, -⟩ := oneResponsePerOperation i _ t he
    exact ⟨t, st, v, l, hstep, hend.responses, hend.ne_storeError, hend.history, hend.length_le, hmax, hinput,
      stepKeepsInvariant s t hs hstep⟩
  · have hstep := step_of_illegal hwf hin (not_exists.mp hd)
    exact ⟨_, .invalidArgument, 0, [], hstep, rfl, nofun, (List.append_nil _).symm, Nat.zero_le _, hmax, rfl,
      stepKeepsInvariant s _ hs hstep⟩

end Sys2Proof.Machine

/-! SUPPORT. The rules of 60_exceptions.md that hold of every operation, from their endings: the table of statuses (O20)
and what a refusal and a failed sensor read leave (O21); the owner of the PWM output (O16); the step's word and the
host's view of the responses (O5, O22). -/

namespace Sys2Proof.Machine

/-! ## The operations without bus access -/

/-- No transaction was issued, and the PWM controller is as it was. -/
def Quiet (s t : State) : Prop := t.history = s.history ∧ t.pwmdev = s.pwmdev

theorem quiet_respond (st : Status) (v : Word) (s : State) : Quiet s (respond st v s) := ⟨rfl, rfl⟩

theorem NoBusOp.quiet {i : Instr} {s t : State} (hi : NoBusOp i) (h : exec i s = .next t) : Quiet s t := by
  cases hi with
  | nop | rdreg | animBoot | animBrinit | animBren | animStop | animBlink => cases h; exact ⟨rfl, rfl⟩
  | ptCalvfy =>
    cases hcal : s.cal with
    | none => cases (execPtCalvfy_unloaded hcal).symm.trans h; exact quiet_respond ..
    | some c => cases (execPtCalvfy_loaded hcal).symm.trans h; exact ⟨rfl, rfl⟩
  | pwmPct2duty p =>
    cases h
    split <;> exact quiet_respond ..
  | lampLoad b m =>
    cases h
    split <;> exact ⟨rfl, rfl⟩

/-! ## The table of statuses (R221) -/

/-- Settles O20, status by status, each from the endings. -/
theorem statusTable : Obligations.StatusTable := by
  refine ⟨fun i s t st v l hs h hr hl => ?_, fun s src w rest hwf hin hd => ⟨_, step_of_illegal hwf hin hd, rfl⟩⟩
  obtain ⟨l', hend⟩ := ending_of_exec hs h hr
  obtain rfl : l' = l := List.append_cancel_left (hend.history.symm.trans hl)
  refine ⟨hend.invalidArgument_iff, hend.busError_iff, hend.calibrationError_iff, hend.ne_storeError, fun hi => ?_⟩
  obtain ⟨hquiet, -⟩ := hi.quiet h
  exact List.self_eq_append_right.mp (hquiet.symm.trans hl)

/-! ## What an error leaves (R223, R230) -/

/-- A sensor operation that ends with BusError has written nothing. -/
theorem SensorRun.busError_frame {s t : State} {v : Word} (h : SensorRun s t)
    (hr : t.responses = answeredWith s .busError v) :
    v = 0 ∧ ∃ l rest, t = respond .busError 0 (s.sensed l rest) := by
  cases h with
  | completed _ _ hst =>
    obtain ⟨hbus, -⟩ := answeredWith_inj hr
    exact absurd hbus hst
  | failed =>
    obtain ⟨-, hv⟩ := answeredWith_inj hr
    exact ⟨hv.symm, _, _, rfl⟩

/-- Settles O21: a refusal is one of the two endings without a write, and the five reads are sensor operations. -/
theorem refusalsChangeNothing : Obligations.RefusalsChangeNothing := by
  intro i s t st v hs h hr
  obtain ⟨l, hend⟩ := ending_of_exec hs h hr
  refine ⟨fun hst => ?_, ?_⟩
  · obtain ⟨rfl, ht⟩ := hend.refusal_frame hst
    exact ⟨rfl, ht⟩
  · rintro rfl hi
    have hsensor : SensorOp i := by
      rcases hi with rfl | rfl | rfl | rfl | rfl <;> constructor
    obtain ⟨hv, l, rest, rfl⟩ := (sensorRun_of_exec hsensor hs.left h).busError_frame hr
    exact ⟨hv, rfl⟩

/-! ## The owner of the PWM output (R232) -/

/-- The mixer's output gate, mireds 0 included (42_mixing.md R162). -/
theorem applyAndRespond_quiet {s : State} (b : Byte) (m : Half) (hs : s.animState ≠ .idle) :
    Quiet s (applyAndRespond b m s) := by
  unfold applyAndRespond
  by_cases hm : m = 0
  · rw [hm, applyMix_zero]
    exact quiet_respond ..
  · rw [applyMix_gated b hm hs]
    exact quiet_respond ..

/-- Neither sensor nor direct driver operation: without owning the PWM output there is nothing to put on the bus. -/
theorem quiet_of_not_owner {i : Instr} {s t : State} (h : exec i s = .next t) (hsensor : ¬SensorOp i)
    (hdirect : ¬DirectOp i) (howner : ¬Owns s.animState i) : Quiet s t := by
  cases i with
  | nop => exact NoBusOp.nop.quiet h
  | rdreg r => exact (NoBusOp.rdreg r).quiet h
  | ptCalrd | ptCalvfy | ptInit | ptTemp | rhRead | slInit | slTemp => exact absurd (by constructor) hsensor
  | pwmInit | pwmSetch | pwmSetgrp => exact absurd (by constructor) hdirect
  | pwmPct2duty p => exact (NoBusOp.pwmPct2duty p).quiet h
  | lampLoad b m => exact (NoBusOp.lampLoad b m).quiet h
  | lampSetb b =>
    cases h
    exact applyAndRespond_quiet (s := { s with lampBrightness := b }) b _ fun hs => howner (hs ▸ .lampSetb b)
  | lampSetct m =>
    cases h
    split
    · exact quiet_respond ..
    · exact applyAndRespond_quiet (s := { s with lampMireds := m }) _ m fun hs => howner (hs ▸ .lampSetct m)
  | mixApply b m =>
    cases h
    exact applyAndRespond_quiet b m fun hs => howner (hs ▸ .mixApply b m)
  | mixRecall =>
    cases h
    exact applyAndRespond_quiet _ _ fun hs => howner (hs ▸ .mixRecall)
  | animBoot => exact NoBusOp.animBoot.quiet h
  | animBrinit f => exact (NoBusOp.animBrinit f).quiet h
  | animBren => exact NoBusOp.animBren.quiet h
  | animStop => exact NoBusOp.animStop.quiet h
  | animBlink => exact NoBusOp.animBlink.quiet h
  | animTick =>
    cases (exec_animTick_other fun hs => howner (hs ▸ .tick)).symm.trans h
    exact quiet_respond ..
  | animStep =>
    have hidle : s.animState = .idle ∨ s.animState = .breathing := by
      cases ha : s.animState with
      | idle | breathing => simp
      | bootSequence => exact absurd (ha ▸ .bootStep) howner
      | confirmationBlink => exact absurd (ha ▸ .blinkStep) howner
    cases (execAnimStep_none (runningFrames_none.mpr hidle)).symm.trans h
    exact quiet_respond ..

/-- Settles O16: a sensor operation addresses the sensors (O26), and any other operation left is quiet. -/
theorem onlyOwnerDrivesPwm : Obligations.OnlyOwnerDrivesPwm := by
  intro i s t hwf h hdirect howner
  by_cases hsensor : SensorOp i
  · obtain ⟨⟨-, -, -, -, -, -, -, hdev⟩, hrecords, -⟩ := sensorOpsIgnoreLampState i s t hsensor hwf h
    exact ⟨hdev, hrecords⟩
  · obtain ⟨hhist, hdev⟩ := quiet_of_not_owner h hsensor hdirect howner
    exact ⟨hdev, [], hhist.trans (List.append_nil _).symm, nofun⟩

/-! ## The step's word, and the host's view -/

/-- Settles O5: `accept` is the state with the item consumed and its source recorded. -/
theorem stepPerformsDecodedOperation : Obligations.StepPerformsDecodedOperation := by
  refine ⟨fun s src w rest i hwf hin hd => step_of_decoded hwf hin hd, fun s i hwf => ?_⟩
  have hword : BitVec.ofNat 32 ((encode i).toNat % 2 ^ 32) = encode i := by
    rw [Nat.mod_eq_of_lt (encode i).isLt, BitVec.ofNat_toNat, BitVec.setWidth_eq]
  have hin : (s.withFetchWord 32 (encode i).toNat).input = .event .host (encode i) :: s.input := by
    rw [State.withFetchWord, hword]
  exact step_of_decoded hwf hin (decode_encode i)

/-- Settles O22, by the source. -/
theorem hostSeesItsResponses : Obligations.HostSeesItsResponses := by
  refine ⟨fun r => rfl, fun src v st hsrc => ?_⟩
  cases src with
  | host => exact absurd rfl hsrc
  | tick | sequencer => rfl

end Sys2Proof.Machine

/-! SUPPORT. The source of a word is read only where the response is addressed (60_exceptions.md R235, O19): an
operation commutes with a change of the addressee. -/

namespace Sys2Proof.Machine

/-! ## With another addressee -/

/-- A delivery to another source. -/
def Delivery.readdress (src : Source) (d : Delivery) : Delivery := { d with dest := src }

/-- The state as if `src` were being served and had been sent every response so far, those of `past` coming before. -/
def State.readdress (src : Source) (past : List Delivery) (s : State) : State :=
  { s with requester := src, responses := past ++ s.responses.map (Delivery.readdress src) }

section
variable (src : Source) (past : List Delivery)

@[simp] theorem readdress_cfg (s : State) : (s.readdress src past).cfg = s.cfg := rfl
@[simp] theorem readdress_cal (s : State) : (s.readdress src past).cal = s.cal := rfl
@[simp] theorem readdress_calValid (s : State) : (s.readdress src past).calValid = s.calValid := rfl
@[simp] theorem readdress_animState (s : State) : (s.readdress src past).animState = s.animState := rfl
@[simp] theorem readdress_seqIdx (s : State) : (s.readdress src past).seqIdx = s.seqIdx := rfl
@[simp] theorem runningFrames_readdress (s : State) : runningFrames (s.readdress src past) = runningFrames s := rfl

/-- The response is the one thing the source decides (30_encoding.md R85). -/
@[simp] theorem respond_readdress (st : Status) (v : Word) (s : State) :
    respond st v (s.readdress src past) = (respond st v s).readdress src past := by
  simp [respond, State.readdress, Delivery.readdress]

theorem onBus_readdress {q : BusRequest} {s : State} {next : List Byte → State → State}
    (hnext : ∀ bytes u, next bytes (u.readdress src past) = (next bytes u).readdress src past) :
    onBus q (s.readdress src past) next = (onBus q s next).readdress src past := by
  have htransact : (transact q (s.readdress src past)).2 = (transact q s).2.readdress src past := rfl
  have hanswer : busAnswer q (s.readdress src past) = busAnswer q s := rfl
  rw [onBus, htransact, hanswer, onBus]
  split
  · exact respond_readdress ..
  · exact hnext _ _

theorem setChannel_readdress (ch : Nat) (duty : Byte) (s : State) : setChannel ch duty (s.readdress src past) =
    ((setChannel ch duty s).1, (setChannel ch duty s).2.readdress src past) := by
  unfold setChannel
  split <;> rfl

theorem writeChannels_readdress (ds : List (Nat × Byte)) (s : State) : writeChannels ds (s.readdress src past) =
    { writeChannels ds s with state := (writeChannels ds s).state.readdress src past } := by
  induction ds generalizing s with
  | nil => rfl
  | cons x ds ih => simp only [writeChannels, setChannel_readdress, ih]

/-- A best-effort run, then a response that may tell the number of successes (41_pwm_driver.md R148). -/
theorem respond_writeChannels_readdress (ds : List (Nat × Byte)) (v : Nat → Word) (s : State) :
    respond (writeChannels ds (s.readdress src past)).status (v (writeChannels ds (s.readdress src past)).count)
      (writeChannels ds (s.readdress src past)).state =
    (respond (writeChannels ds s).status (v (writeChannels ds s).count) (writeChannels ds s).state).readdress src past
      := by
  rw [writeChannels_readdress]
  exact respond_readdress ..

theorem writeSteps_readdress {next : State → State}
    (hnext : ∀ u, next (u.readdress src past) = (next u).readdress src past) (ws : List (Byte × Byte)) (s : State) :
    writeSteps ws (s.readdress src past) next = (writeSteps ws s next).readdress src past := by
  induction ws generalizing s with
  | nil => exact hnext s
  | cons w ws ih => exact onBus_readdress src past fun _ u => ih u

theorem promWord_readdress {i : Nat} {s : State} {next : Half → State → State}
    (hnext : ∀ w u, next w (u.readdress src past) = (next w u).readdress src past) :
    promWord i (s.readdress src past) next = (promWord i s next).readdress src past :=
  onBus_readdress src past (q := .write s.cfg.ptAddr (promCmd s.cfg i) []) fun _ u =>
    onBus_readdress src past (q := .read u.cfg.ptAddr 2) fun bytes u => hnext (BitVec.ofNat 16 (beNat bytes)) u

theorem promWords_readdress {n i : Nat} {s : State} {next : List Half → State → State}
    (hnext : ∀ ws u, next ws (u.readdress src past) = (next ws u).readdress src past) :
    promWords n i (s.readdress src past) next = (promWords n i s next).readdress src past := by
  induction n generalizing i s next with
  | zero => exact hnext [] s
  | succ n ih =>
    exact promWord_readdress src past fun w u => ih fun ws u => hnext (w :: ws) u

theorem readCalibration_readdress {s : State} {next : Coeffs → State → State}
    (hnext : ∀ c u, next c (u.readdress src past) = (next c u).readdress src past) :
    readCalibration (s.readdress src past) next = (readCalibration s next).readdress src past :=
  promWords_readdress src past fun ws u =>
    hnext (Coeffs.ofWords ws) { u with cal := some (Coeffs.ofWords ws), calValid := false }

theorem applyAndRespond_readdress (b : Byte) (m : Half) (s : State) :
    applyAndRespond b m (s.readdress src past) = (applyAndRespond b m s).readdress src past := by
  unfold applyAndRespond
  by_cases hm : m = 0
  · rw [hm, applyMix_zero, applyMix_zero]
    exact respond_readdress ..
  · by_cases hs : s.animState = .idle
    · rw [applyMix_idle b hm hs, applyMix_idle (s := s.readdress src past) b hm hs, writeChannels_readdress]
      exact respond_readdress ..
    · rw [applyMix_gated b hm hs, applyMix_gated (s := s.readdress src past) b hm hs]
      exact respond_readdress ..

/-! ## Every operation -/

/-- The outcome with another addressee in its next state. -/
def readdressOutcome : Host.Outcome State Fault Refusal → Host.Outcome State Fault Refusal
  | .next t => .next (t.readdress src past)
  | .fault r => .fault r
  | .refused r => .refused r

theorem readdressOutcome_eq_next {o : Host.Outcome State Fault Refusal} {t : State}
    (ho : readdressOutcome src past o = .next t) : ∃ u, o = .next u ∧ t = u.readdress src past := by
  cases o with
  | next u => cases ho; exact ⟨u, rfl, rfl⟩
  | fault r => cases ho
  | refused r => cases ho

/-- The operation `op` does the same with another addressee. -/
def IgnoresSource (op : State → Host.Outcome State Fault Refusal) : Prop :=
  ∀ s, op (s.readdress src past) = readdressOutcome src past (op s)

theorem ignoresSource_next {op : State → State}
    (hop : ∀ s, op (s.readdress src past) = (op s).readdress src past) : IgnoresSource src past fun s => .next (op s) :=
  fun s => congrArg Host.Outcome.next (hop s)

theorem execPtCalvfy_ignoresSource : IgnoresSource src past execPtCalvfy := by
  refine ignoresSource_next src past fun s => ?_
  rw [readdress_cal]
  split
  · exact respond_readdress ..
  · split
    · exact respond_readdress src past .ok 1 { s with calValid := true }
    · exact respond_readdress src past .ok 0 { s with calValid := false }

theorem execPtInit_ignoresSource : IgnoresSource src past execPtInit := by
  refine ignoresSource_next src past fun s => readCalibration_readdress src past fun c u => ?_
  split
  · exact respond_readdress src past .ok 1 { u with calValid := true }
  · exact respond_readdress ..

theorem execPtTemp_ignoresSource : IgnoresSource src past execPtTemp := by
  refine ignoresSource_next src past fun s => ?_
  rw [readdress_calValid, readdress_cal]
  split
  · exact onBus_readdress src past fun _ _ => onBus_readdress src past fun _ _ => respond_readdress ..
  · exact respond_readdress ..

theorem execRhRead_ignoresSource : IgnoresSource src past execRhRead :=
  ignoresSource_next src past fun _ =>
    onBus_readdress src past fun _ _ => onBus_readdress src past fun _ _ => respond_readdress ..

theorem execSlInit_ignoresSource : IgnoresSource src past execSlInit := by
  refine ignoresSource_next src past fun _ => onBus_readdress src past fun bytes u => ?_
  rw [readdress_cfg]
  split
  · exact onBus_readdress src past fun _ _ => respond_readdress ..
  · exact respond_readdress ..

theorem execSlTemp_ignoresSource : IgnoresSource src past execSlTemp :=
  ignoresSource_next src past fun _ => onBus_readdress src past fun _ _ => respond_readdress ..

theorem execPwmInit_ignoresSource : IgnoresSource src past execPwmInit :=
  ignoresSource_next src past fun s =>
    writeSteps_readdress src past (fun _ => respond_readdress ..) _ { s with pwmEn := true }

theorem execPwmSetch_ignoresSource (a d : Byte) : IgnoresSource src past (execPwmSetch a d) :=
  ignoresSource_next src past fun s => by
    rw [setChannel_readdress]
    exact respond_readdress ..

theorem execPwmSetgrp_ignoresSource (a d : Byte) : IgnoresSource src past (execPwmSetgrp a d) := by
  refine ignoresSource_next src past fun s => ?_
  rw [readdress_cfg]
  split
  · exact respond_readdress ..
  · exact respond_writeChannels_readdress src past _ (BitVec.ofNat 32) s

theorem execPwmPct2duty_ignoresSource (p : Byte) : IgnoresSource src past (execPwmPct2duty p) :=
  ignoresSource_next src past fun _ => by split <;> exact respond_readdress ..

theorem execLampLoad_ignoresSource (b : Byte) (m : Half) : IgnoresSource src past (execLampLoad b m) := by
  refine ignoresSource_next src past fun s => ?_
  split
  · exact respond_readdress ..
  · exact respond_readdress src past .ok 0 { s with lampBrightness := b, lampMireds := m }

theorem execLampSetct_ignoresSource (m : Half) : IgnoresSource src past (execLampSetct m) := by
  refine ignoresSource_next src past fun s => ?_
  split
  · exact respond_readdress ..
  · exact applyAndRespond_readdress src past s.lampBrightness m { s with lampMireds := m }

theorem execAnimTick_ignoresSource : IgnoresSource src past execAnimTick := by
  refine ignoresSource_next src past fun s => ?_
  rw [readdress_animState]
  split
  · exact respond_writeChannels_readdress src past _ (fun _ => _) { s with phase := s.phase + s.freq }
  · exact respond_readdress ..

theorem execAnimStep_ignoresSource : IgnoresSource src past execAnimStep := by
  intro s
  unfold execAnimStep
  rw [runningFrames_readdress, readdress_seqIdx]
  split
  · exact congrArg Host.Outcome.next (respond_readdress ..)
  · split
    · rfl
    · next frames _ _ frame _ =>
      dsimp only
      rw [applyFrame, writeChannels_readdress]
      split
      · exact congrArg Host.Outcome.next
          (respond_readdress src past _ _ (enterState .idle (applyFrame frame.levels s).state))
      · exact congrArg Host.Outcome.next
          (respond_readdress src past _ _ { (applyFrame frame.levels s).state with seqIdx := s.seqIdx + 1 })

theorem exec_ignoresSource (i : Instr) : IgnoresSource src past (exec i) := by
  intro s
  cases i with
  | nop | rdreg r => exact congrArg Host.Outcome.next (respond_readdress src past _ _ s)
  | ptCalrd =>
    exact congrArg Host.Outcome.next (readCalibration_readdress src past fun _ _ => respond_readdress ..)
  | ptCalvfy => exact execPtCalvfy_ignoresSource src past s
  | ptInit => exact execPtInit_ignoresSource src past s
  | ptTemp => exact execPtTemp_ignoresSource src past s
  | rhRead => exact execRhRead_ignoresSource src past s
  | slInit => exact execSlInit_ignoresSource src past s
  | slTemp => exact execSlTemp_ignoresSource src past s
  | pwmInit => exact execPwmInit_ignoresSource src past s
  | pwmSetch a d => exact execPwmSetch_ignoresSource src past a d s
  | pwmSetgrp a d => exact execPwmSetgrp_ignoresSource src past a d s
  | pwmPct2duty p => exact execPwmPct2duty_ignoresSource src past p s
  | lampLoad b m => exact execLampLoad_ignoresSource src past b m s
  | lampSetb b =>
    exact congrArg Host.Outcome.next
      (applyAndRespond_readdress src past b s.lampMireds { s with lampBrightness := b })
  | lampSetct m => exact execLampSetct_ignoresSource src past m s
  | mixApply b m => exact congrArg Host.Outcome.next (applyAndRespond_readdress src past b m s)
  | mixRecall =>
    exact congrArg Host.Outcome.next (applyAndRespond_readdress src past s.lampBrightness s.lampMireds s)
  | animBoot => exact congrArg Host.Outcome.next (respond_readdress src past _ _ (enterState .bootSequence s))
  | animBrinit f => exact congrArg Host.Outcome.next (respond_readdress src past _ _ { s with phase := 0, freq := f })
  | animBren => exact congrArg Host.Outcome.next (respond_readdress src past _ _ (enterState .breathing s))
  | animStop => exact congrArg Host.Outcome.next (respond_readdress src past _ _ (enterState .idle s))
  | animBlink => exact congrArg Host.Outcome.next (respond_readdress src past _ _ (enterState .confirmationBlink s))
  | animTick => exact execAnimTick_ignoresSource src past s
  | animStep => exact execAnimStep_ignoresSource src past s

end

/-- An operation for any source is the one with nothing delivered yet, its response readdressed and put last. -/
theorem exec_withRequester (i : Instr) (s : State) (src : Source) :
    exec i { s with requester := src } =
      readdressOutcome src s.responses (exec i { s with responses := [] }) := by
  rw [← exec_ignoresSource]
  simp [State.readdress]

/-- Settles O19: for both sources the outcome is that of the operation with nothing delivered yet, whose one response is
the operation's. -/
theorem sourceDoesNotMatter : Obligations.SourceDoesNotMatter := by
  intro i s t r src h hr
  obtain ⟨u, hu, rfl⟩ := readdressOutcome_eq_next _ _ ((exec_withRequester i s s.requester).symm.trans h)
  obtain ⟨⟨st, v, hone⟩, -⟩ := oneResponsePerOperation i _ u hu
  have hlast : u.responses.map (Delivery.readdress s.requester) = [⟨s.requester, r⟩] := List.append_cancel_left hr
  obtain rfl : ⟨st, v⟩ = r := by simpa [hone, Delivery.readdress] using hlast
  rw [exec_withRequester, hu]
  simp [readdressOutcome, State.readdress, hone, Delivery.readdress]

end Sys2Proof.Machine

/-! SUPPORT. Reset as an item of the input (70_reset_and_hazards.md R250): the branch of the step that takes it. -/

namespace Sys2Proof.Machine

/-- A reset that is next in the input is applied, whatever the block was doing (R250). -/
theorem step_of_input_reset {s : State} {rest : List Input} (hwf : s.cfg.wf = true) (hin : s.input = .reset :: rest) :
    step s = .next (applyReset rest s) := by
  simp [step, hwf, hin]

/-- Settles O6: `applyReset` is the reset state of R35 with the elements that are not the block's kept (log 4). -/
theorem stepAppliesReset : Obligations.StepAppliesReset :=
  fun _ _ hwf hin => step_of_input_reset hwf hin

end Sys2Proof.Machine
